-- ==== Sys2Proof/Word.lean ====
section
/-! DEFINITION. The word types of AFRS (spec 00_scope R9, 10_state R20). -/

namespace Sys2Proof

/-- One byte: a payload byte, or a byte of an image or word (30_encoding R70). -/
abbrev Byte := BitVec 8

/-- An identifier, filter value or mask value: every one is held in 29 bits (10_state R24, R26, R32). -/
abbrev Ident := BitVec 29

/-- A 32-bit unsigned word: the bit rate, `IDW` of a frame image, an entry word (30_encoding R71, R73, R78). -/
abbrev Word32 := BitVec 32

end Sys2Proof
end

