-- ==== Sys2Proof/Syntax.lean ====
section
/-! DEFINITION. The values of AFRS and its instructions: frames, tables, sequencer states, draws, responses,
history entries, schedule lines, and one constructor of `Instr` per row of spec/opcode_table.json. -/

namespace Sys2Proof

/-- A CAN frame (00_scope R11). `data` is the sequence of valid payload bytes; `frameWF` says when the record is a
frame at all (R12). -/
structure Frame where
  id : Ident
  ext : Bool
  rtr : Bool
  len : BitVec 4
  data : List Byte
deriving DecidableEq, Repr, Inhabited

/-- The storage of the held frame `HF` (10_state R32): 29+1+1+4 bits and eight payload bytes. -/
structure HeldFrame where
  id : Ident
  ext : Bool
  rtr : Bool
  len : BitVec 4
  d0 : Byte
  d1 : Byte
  d2 : Byte
  d3 : Byte
  d4 : Byte
  d5 : Byte
  d6 : Byte
  d7 : Byte
deriving DecidableEq, Repr, Inhabited

/-- A table entry (00_scope R11): width tag `x` (false = standard, true = extended) and value `v`. -/
structure Entry where
  x : Bool
  v : Ident
deriving DecidableEq, Repr, Inhabited

/-- Six filters and two masks (00_scope R11). It is both the Filter Table (the operand of `CONFIGURE_FILTERS`) and the
contents of the filter register file, whose eight entries are (tag, value) pairs (20_memory R52). -/
structure Table where
  f0 : Entry
  f1 : Entry
  f2 : Entry
  f3 : Entry
  f4 : Entry
  f5 : Entry
  m0 : Entry
  m1 : Entry
deriving DecidableEq, Repr, Inhabited

/-- The eight sequencer states (10_state R31, 30_encoding R80). -/
inductive SeqState where
  | booting | filterConfig | startupTx | relayPoll | relayFetch | relayXform | relayTx | halted
deriving DecidableEq, Repr, Inhabited

/-- The five fault codes (60_exceptions R171). -/
inductive FaultCode where
  | fcInit | fcCfgMode | fcCfgTable | fcRx | fcTx
deriving DecidableEq, Repr, Inhabited

/-- A response of form `RS` (30_encoding R77): `OK` or a fault code. -/
inductive Status where
  | ok
  | fault (c : FaultCode)
deriving DecidableEq, Repr, Inhabited

/-- A response of form `RF` (30_encoding R77): `OK` with the fetched frame, or a fault code. -/
inductive FetchResponse where
  | ok (fr : Frame)
  | fault (c : FaultCode)
deriving DecidableEq, Repr, Inhabited

/-- An answer to one of the draws `o_init`, `o_cfg`, `o_rx`, `o_tx` (00_scope R13). -/
inductive Answer where
  | ok | fault
deriving DecidableEq, Repr, Inhabited

/-- An answer to the draw `o_rxkeep` (00_scope R13). -/
inductive KeepAnswer where
  | keep | consume
deriving DecidableEq, Repr, Inhabited

/-- An answer to the draw `o_pre` (00_scope R13). -/
inductive PreAnswer where
  | accept | reject
deriving DecidableEq, Repr, Inhabited

/-- The environment's answers to the draws of one step (00_scope R13). A draw that the step does not take is not read
(log 11). -/
structure Draws where
  oInit : Answer
  oCfg : Answer
  oRx : Answer
  oRxKeep : KeepAnswer
  oTx : Answer
  oPre : PreAnswer
deriving DecidableEq, Repr, Inhabited

/-- One line of the environment's schedule (00_scope R13, 30_encoding R83): a sequencer step, or an event word that
arrives; `command` is the model's own (log 7): a command word placed on the interface from outside, which the real
environment cannot do (41_interface_ops R120c). -/
inductive ScheduleLine where
  | seqStep (d : Draws)
  | event (bytes : List Byte) (d : Draws)
  | command (bytes : List Byte) (d : Draws)
deriving DecidableEq, Repr, Inhabited

/-- An entry of `TRACE` (00_scope R14): one of the five calls with its arguments and response, or the `RESET` mark. -/
inductive TraceEntry where
  | initBus (n : Word32) (r : Status)
  | configureFilters (t : Table) (r : Status)
  | frameAvailable (r : Bool)
  | receiveFrame (r : FetchResponse)
  | transmitFrame (fr : Frame) (r : Status)
  | reset
deriving DecidableEq, Repr, Inhabited

/-- An entry of `TXOUT` (00_scope R14): a frame handed to the bus, or the `RESET` mark. -/
inductive TxEntry where
  | frame (fr : Frame)
  | reset
deriving DecidableEq, Repr, Inhabited

/-- An entry of `DIAGLOG` (00_scope R14): a level written to `DIAG`, or the `RESET` mark. -/
inductive DiagEntry where
  | level (b : Bool)
  | reset
deriving DecidableEq, Repr, Inhabited

/-- A well-delimited item in one of the three separate code spaces (30_encoding R70): a command word, an event word, or
a sequencer code. -/
inductive CodeWord where
  | command (bytes : List Byte)
  | event (bytes : List Byte)
  | seqCode (code : BitVec 3)
deriving DecidableEq, Repr, Inhabited

/-- Why a decoder answers "invalid" (30_encoding R72, R73, R81, R82). -/
inductive DecodeError where
  /-- Operation byte 0x00 or 0x08..0xFF (R81). -/
  | reservedOperation (op : Byte)
  /-- Event byte other than 0x80 and 0x81 (R81). -/
  | reservedEvent (ev : Byte)
  /-- `DIAG_SET` operand other than 0x00 and 0x01 (R81). -/
  | reservedDiagOperand (b : Byte)
  /-- Response byte above its range (R81). -/
  | reservedResponse (b : Byte)
  /-- The number of bytes is not the one the first byte fixes (R82). -/
  | wrongLength
  /-- `IDW[30]` is 1 (R72). -/
  | frameReservedBit
  /-- `LENB[7:4]` is not 0 (R72). -/
  | frameReservedLenBits
  /-- `LENB[3:0]` is above 8 (R72). -/
  | frameLenTooLong
  /-- A standard frame with `IDW[28:11]` not 0 (R72). -/
  | frameIdTooWide
  /-- A byte after the payload that is not 0x00 (R72). -/
  | framePadNonZero
  /-- Bits [30:29] of an entry word are not 0 (R73). -/
  | entryReservedBits
deriving DecidableEq, Repr, Inhabited

/-- The 17 rows of spec/opcode_table.json: seven interface operations (30_encoding R76), two environment events (R79),
eight micro-operations (R80). -/
inductive Instr where
  | initBus (n : Word32)
  | configureFilters (t : Table)
  | frameAvailable
  | receiveFrame
  | transmitFrame (fr : Frame)
  | diagSet (b : Bool)
  | diagToggle
  | reset
  | rxOffer (fr : Frame)
  | sqInit
  | sqCfg
  | sqStx
  | sqPoll
  | sqFetch
  | sqXform
  | sqTx
  | sqHalt
deriving DecidableEq, Repr, Inhabited

end Sys2Proof
end

