-- ==== Sys2Proof/Config.lean ====
section
/-! DEFINITION. What is fixed for one AFRS block: the constants of 00_scope R7, the open parameters of R8, and the free
values (values the spec leaves unspecified: opaque, nothing can be proved of them). -/

namespace Sys2Proof

/-- `ID_OVF_POLICY` (00_scope R8, 42_relay_sequencer R149). -/
inductive IdOvfPolicy where
  | wrap | saturate | reject
deriving DecidableEq, Repr, Inhabited

/-- `CFG_FAULT_POLICY` (00_scope R8, 60_exceptions R176). -/
inductive CfgFaultPolicy where
  | retry | halt
deriving DecidableEq, Repr, Inhabited

/-- `PRECFG_POLICY` (00_scope R8, 40_acceptance_filter R104). -/
inductive PrecfgPolicy where
  | rejectAll | draw
deriving DecidableEq, Repr, Inhabited

/-- `RX_OVF` (00_scope R8, 40_acceptance_filter R105). -/
inductive RxOvfPolicy where
  | dropNew | dropOldest | replaceNewest
deriving DecidableEq, Repr, Inhabited

/-- The open parameters, each a named argument of the model (00_scope R8): a field of `State.params`, which no step
writes (10_state R37, log 5). -/
structure Params where
  idOvf : IdOvfPolicy
  cfgFault : CfgFaultPolicy
  precfg : PrecfgPolicy
  rxCap : Nat
  rxOvf : RxOvfPolicy
deriving DecidableEq, Repr, Inhabited

/-- `BITRATE_CFG` (00_scope R7). -/
def Config.bitRate : Word32 := 500000#32

/-- `RELAY_OFFSET` (00_scope R7). -/
def Config.relayOffset : Nat := 10

/-- `MAX_LEN` (00_scope R7). -/
def Config.maxLen : Nat := 8

/-- `W_STD` (00_scope R7). -/
def Config.wStd : Nat := 11

/-- `W_EXT` (00_scope R7). -/
def Config.wExt : Nat := 29

/-- `DIAG_FRAME`, the start-up frame (00_scope R7). -/
def Config.diagFrame : Frame :=
  { id := 0x123456#29, ext := true, rtr := false, len := 4#4, data := [0xDE#8, 0xAD#8, 0xBE#8, 0xEF#8] }

/-- `TABLE`, the deployment filter table (00_scope R7). -/
def Config.table : Table :=
  { f0 := { x := false, v := 0x000#29 }
    f1 := { x := false, v := 0x000#29 }
    f2 := { x := false, v := 0x0FF#29 }
    f3 := { x := false, v := 0x0FF#29 }
    f4 := { x := false, v := 0x0FF#29 }
    f5 := { x := false, v := 0x0FF#29 }
    m0 := { x := false, v := 0x7F3#29 }
    m1 := { x := false, v := 0x7FF#29 } }

/-- The 32 bytes of the `TABLE` ROM as 30_encoding R74 lists them (addresses 0 to 31, 20_memory R51). -/
def Config.romImage : List Byte :=
  [0x00#8, 0x00#8, 0x00#8, 0x00#8,  0x00#8, 0x00#8, 0x00#8, 0x00#8,
   0xFF#8, 0x00#8, 0x00#8, 0x00#8,  0xFF#8, 0x00#8, 0x00#8, 0x00#8,
   0xFF#8, 0x00#8, 0x00#8, 0x00#8,  0xFF#8, 0x00#8, 0x00#8, 0x00#8,
   0xF3#8, 0x07#8, 0x00#8, 0x00#8,  0xFF#8, 0x07#8, 0x00#8, 0x00#8]

/-- Size of the `TABLE` ROM in bytes (20_memory R51). -/
def Config.romSize : Nat := 32

/-- `CFG_FAULT_POLICY` of the block that `State.reset` describes: OPEN (92_eei_decisions D4), so a value nothing is known
of (log 5). -/
opaque Config.cfgFaultPolicy : CfgFaultPolicy

/-- `RX_CAP` less one, of the block that `State.reset` describes: OPEN, at least 1 (92_eei_decisions D10, log 5). -/
opaque Config.rxCapPred : Nat

/-- `RX_OVF` of the block that `State.reset` describes: OPEN (92_eei_decisions D10, log 5). -/
opaque Config.rxOvfPolicy : RxOvfPolicy

/-- The parameters of the block that `State.reset` describes: the spec's decisions `WRAP` (D5) and `REJECT_ALL` (D8), and
the three OPEN ones (00_scope R8, log 5). -/
def Config.params : Params :=
  { idOvf := .wrap, cfgFault := Config.cfgFaultPolicy, precfg := .rejectAll,
    rxCap := Config.rxCapPred + 1, rxOvf := Config.rxOvfPolicy }

/-- The parameters that the vectors of 95_test_vectors.md use unless they say otherwise. -/
def Config.vectorParams : Params :=
  { idOvf := .wrap, cfgFault := .retry, precfg := .rejectAll, rxCap := 2, rxOvf := .dropNew }

/-- Free value: the environment's answers in step number `n` when the schedule is exhausted (00_scope R13: "under no
law"; log 4). -/
opaque Config.freeDraws : Nat → Draws

/-- Free value: `BITRATE` after a `RESET` step that is step number `n` (70_reset_and_hazards R200; log 2). -/
opaque Config.freeBitRate : Nat → Word32

/-- Free value: the filter register file after a `RESET` step that is step number `n` (70_reset_and_hazards R200;
log 2). -/
opaque Config.freeFilters : Nat → Table

/-- Free value: `HF` after step number `n`, where that step leaves it unspecified (10_state R32, R39; log 2, 3). -/
opaque Config.freeHeld : Nat → HeldFrame

end Sys2Proof
end

