-- ==== Sys2Proof/Machine/Operands.lean ====
section
/-! DEFINITION. Operand forms: byte order and word assembly (20_memory R55, 30_encoding R78), widths and the
well-formedness predicates (00_scope R9, R12), the grouping of the filters (R7), and the frame view of `HF`
(10_state R32). -/

namespace Sys2Proof

/-- `W(e)`: 11 for a standard, 29 for an extended frame or entry (00_scope R9). -/
def widthOf (e : Bool) : Nat := if e then Config.wExt else Config.wStd

/-- A 32-bit word from its four little-endian bytes, lowest offset first (30_encoding R78). -/
def wordOfBytes (b0 b1 b2 b3 : Byte) : Word32 := b3 ++ b2 ++ b1 ++ b0

/-- The four little-endian bytes of a 32-bit word, lowest offset first (20_memory R55). -/
def bytesOfWord (w : Word32) : List Byte :=
  [w.extractLsb' 0 8, w.extractLsb' 8 8, w.extractLsb' 16 8, w.extractLsb' 24 8]

/-- The unsigned number that a little-endian byte sequence spells (00_scope R10, `MemRead`). -/
def leNat : List Byte → Nat
  | [] => 0
  | b :: bs => b.toNat + 256 * leNat bs

/-- `FrameWF` (00_scope R12): `len <= 8`, the payload has `len` bytes, the identifier fits its width class. -/
def frameWF (fr : Frame) : Bool :=
  decide (fr.len.toNat ≤ Config.maxLen) && decide (fr.data.length = fr.len.toNat) &&
    decide (fr.id.toNat < 2 ^ widthOf fr.ext)

/-- An entry's value fits its own width tag (00_scope R12). -/
def entryFits (e : Entry) : Bool := decide (e.v.toNat < 2 ^ widthOf e.x)

/-- `grp(k)`: filters 0 and 1 are in group 0, filters 2 to 5 in group 1 (00_scope R7). -/
def grp (k : Fin 6) : Fin 2 := if k.val < 2 then 0 else 1

/-- Filter entry `k` of a table or of the register file (20_memory R52, indices 0 to 5). -/
def filterEntry (t : Table) (k : Fin 6) : Entry :=
  match k with
  | 0 => t.f0
  | 1 => t.f1
  | 2 => t.f2
  | 3 => t.f3
  | 4 => t.f4
  | 5 => t.f5

/-- Mask entry `g` of a table or of the register file (20_memory R52, indices 6 and 7). -/
def maskEntry (t : Table) (g : Fin 2) : Entry :=
  match g with
  | 0 => t.m0
  | 1 => t.m1

/-- Filter `k` obeys `TableWF`'s clause: its tag is its group's mask's tag, and its value fits (00_scope R12). -/
def filterWF (t : Table) (k : Fin 6) : Bool :=
  decide ((filterEntry t k).x = (maskEntry t (grp k)).x) && entryFits (filterEntry t k)

/-- `TableWF` (00_scope R12): one width tag per group, the mask's included, and every value fits its width. -/
def tableWF (t : Table) : Bool :=
  filterWF t 0 && filterWF t 1 && filterWF t 2 && filterWF t 3 && filterWF t 4 && filterWF t 5 &&
    entryFits t.m0 && entryFits t.m1

/-- Payload byte `i` as stored: the frame's byte below `len`, 0x00 from `len` on (92_eei_decisions D19). -/
def payloadByte (fr : Frame) (i : Nat) : Byte := if i < fr.len.toNat then fr.data.getD i 0#8 else 0#8

/-- `HF <- fr` and `HF.data[i] <- 0x00` for `i >= fr.len`: the whole record (42_relay_sequencer R143, R145). -/
def loadHeld (fr : Frame) : HeldFrame :=
  { id := fr.id, ext := fr.ext, rtr := fr.rtr, len := fr.len
    d0 := payloadByte fr 0, d1 := payloadByte fr 1, d2 := payloadByte fr 2, d3 := payloadByte fr 3
    d4 := payloadByte fr 4, d5 := payloadByte fr 5, d6 := payloadByte fr 6, d7 := payloadByte fr 7 }

/-- The eight stored payload bytes of `HF`, in index order (10_state R32). -/
def heldBytes (h : HeldFrame) : List Byte := [h.d0, h.d1, h.d2, h.d3, h.d4, h.d5, h.d6, h.d7]

/-- `HF` as a Frame: only `HF.data[0..HF.len-1]` are part of it (10_state R32, log 13). -/
def heldFrame (h : HeldFrame) : Frame :=
  { id := h.id, ext := h.ext, rtr := h.rtr, len := h.len, data := (heldBytes h).take h.len.toNat }

end Sys2Proof
end

