-- ==== Sys2Proof/WellFormed.lean ====
section
/-! DEFINITION. Which instructions an encoding can spell: an operand frame must meet `FrameWF` (30_encoding R72); every
other operand is well-formed by its type (a table image may spell an ill-formed table, R73). -/

namespace Sys2Proof

/-- The instruction has an encoding (30_encoding R72, R75, R76, R79, R80). -/
def Instr.wf : Instr → Bool
  | .initBus _ => true
  | .configureFilters _ => true
  | .frameAvailable => true
  | .receiveFrame => true
  | .transmitFrame fr => frameWF fr
  | .diagSet _ => true
  | .diagToggle => true
  | .reset => true
  | .rxOffer fr => frameWF fr
  | .sqInit => true
  | .sqCfg => true
  | .sqStx => true
  | .sqPoll => true
  | .sqFetch => true
  | .sqXform => true
  | .sqTx => true
  | .sqHalt => true

/-- The parameters are in the ranges of 00_scope R8: `RX_CAP >= 1`. -/
def Params.wf (p : Params) : Bool := decide (1 ≤ p.rxCap)

end Sys2Proof
end

