-- ==== Sys2Proof/Decode.lean ====
section
/-! DEFINITION. Decoding, total on any bytes and rejecting by name, and encoding (spec file 30_encoding.md): frame images
(R71, R72), entry and table images (R73, R74), command words (R75, R76), response words (R77), event words (R79),
sequencer codes (R80), reserved encodings (R81), lengths (R82). -/

namespace Sys2Proof

/-! ### Frame images -/

/-- Decode a 13-byte frame image; every condition of 30_encoding R72 is checked, in the order it lists them. -/
def decodeFrame : List Byte → Except DecodeError Frame
  | [b0, b1, b2, b3, lenb, d0, d1, d2, d3, d4, d5, d6, d7] =>
    let idw := wordOfBytes b0 b1 b2 b3
    let len := lenb.extractLsb' 0 4
    let pay := [d0, d1, d2, d3, d4, d5, d6, d7]
    if idw.getLsbD 30 then .error .frameReservedBit
    else if lenb.extractLsb' 4 4 ≠ 0#4 then .error .frameReservedLenBits
    else if Config.maxLen < len.toNat then .error .frameLenTooLong
    else if idw.getLsbD 31 = false ∧ idw.extractLsb' 11 18 ≠ 0#18 then .error .frameIdTooWide
    else if (pay.drop len.toNat).any (fun d => d != 0#8) then .error .framePadNonZero
    else .ok { id := idw.extractLsb' 0 29, ext := idw.getLsbD 31, rtr := idw.getLsbD 29, len := len,
               data := pay.take len.toNat }
  | _ => .error .wrongLength

/-- The identifier word `IDW` of a frame image: ext [31], 0 [30], rtr [29], id [28:0] (30_encoding R71). -/
def frameIdWord (fr : Frame) : Word32 :=
  (if fr.ext then 0x80000000#32 else 0#32) ||| (if fr.rtr then 0x20000000#32 else 0#32) ||| fr.id.setWidth 32

/-- The frame image `FI(fr)`, 13 bytes (30_encoding R71). -/
def encodeFrame (fr : Frame) : List Byte :=
  bytesOfWord (frameIdWord fr) ++
    [fr.len.setWidth 8, payloadByte fr 0, payloadByte fr 1, payloadByte fr 2, payloadByte fr 3,
      payloadByte fr 4, payloadByte fr 5, payloadByte fr 6, payloadByte fr 7]

/-! ### Table images -/

/-- Decode an entry word: v [28:0], 0 [30:29], x [31] (30_encoding R73). -/
def decodeEntryWord (w : Word32) : Except DecodeError Entry :=
  if w.extractLsb' 29 2 = 0#2 then .ok { x := w.getLsbD 31, v := w.extractLsb' 0 29 }
  else .error .entryReservedBits

/-- The entry word of an entry (30_encoding R73). -/
def entryWord (e : Entry) : Word32 := (if e.x then 0x80000000#32 else 0#32) ||| e.v.setWidth 32

/-- The entry image `TE(e)`, 4 bytes (30_encoding R73). -/
def encodeEntry (e : Entry) : List Byte := bytesOfWord (entryWord e)

/-- Entry `j` of a table image: the four bytes from offset `4j` (30_encoding R74). -/
def decodeEntryAt (bytes : List Byte) (j : Nat) : Except DecodeError Entry :=
  match bytes.drop (4 * j) with
  | b0 :: b1 :: b2 :: b3 :: _ => decodeEntryWord (wordOfBytes b0 b1 b2 b3)
  | _ => .error .wrongLength

/-- A table from a way to read its eight entries, in table order F0 .. F5, M0, M1 (30_encoding R74). -/
def tableFrom {ε : Type} (entry : Nat → Except ε Entry) : Except ε Table := do
  let f0 ← entry 0
  let f1 ← entry 1
  let f2 ← entry 2
  let f3 ← entry 3
  let f4 ← entry 4
  let f5 ← entry 5
  let m0 ← entry 6
  let m1 ← entry 7
  return { f0 := f0, f1 := f1, f2 := f2, f3 := f3, f4 := f4, f5 := f5, m0 := m0, m1 := m1 }

/-- Decode a 32-byte table image; whether the values fit their tags is `TableWF`'s business (30_encoding R73, R74). -/
def decodeTable (bytes : List Byte) : Except DecodeError Table :=
  if bytes.length = 32 then tableFrom (decodeEntryAt bytes) else .error .wrongLength

/-- The table image `TI(t)`, 32 bytes (30_encoding R74). -/
def encodeTable (t : Table) : List Byte :=
  encodeEntry t.f0 ++ encodeEntry t.f1 ++ encodeEntry t.f2 ++ encodeEntry t.f3 ++
    encodeEntry t.f4 ++ encodeEntry t.f5 ++ encodeEntry t.m0 ++ encodeEntry t.m1

/-! ### Command words, event words, sequencer codes -/

/-- Decode a whole command word: the operation byte fixes the format (30_encoding R75, R76, R81, R82). -/
def decodeCommand : List Byte → Except DecodeError Instr
  | [] => .error .wrongLength
  | op :: rest =>
    match op.toNat with
    | 0x01 => match rest with
      | [b0, b1, b2, b3] => .ok (.initBus (wordOfBytes b0 b1 b2 b3))
      | _ => .error .wrongLength
    | 0x02 => (decodeTable rest).map .configureFilters
    | 0x03 => if rest = [] then .ok .frameAvailable else .error .wrongLength
    | 0x04 => if rest = [] then .ok .receiveFrame else .error .wrongLength
    | 0x05 => (decodeFrame rest).map .transmitFrame
    | 0x06 => match rest with
      | [b] => if b = 0#8 then .ok (.diagSet false) else if b = 1#8 then .ok (.diagSet true)
               else .error (.reservedDiagOperand b)
      | _ => .error .wrongLength
    | 0x07 => if rest = [] then .ok .diagToggle else .error .wrongLength
    | _ => .error (.reservedOperation op)

/-- Decode a whole event word (30_encoding R79, R81, R82). -/
def decodeEvent : List Byte → Except DecodeError Instr
  | [] => .error .wrongLength
  | ev :: rest =>
    match ev.toNat with
    | 0x80 => if rest = [] then .ok .reset else .error .wrongLength
    | 0x81 => (decodeFrame rest).map .rxOffer
    | _ => .error (.reservedEvent ev)

/-- The 3-bit code of a sequencer state (30_encoding R80). -/
def seqCode : SeqState → BitVec 3
  | .booting => 0#3
  | .filterConfig => 1#3
  | .startupTx => 2#3
  | .relayPoll => 3#3
  | .relayFetch => 4#3
  | .relayXform => 5#3
  | .relayTx => 6#3
  | .halted => 7#3

/-- The sequencer state of a 3-bit code; all eight codes are used (30_encoding R80, R81). -/
def seqOfCode (c : BitVec 3) : SeqState :=
  match c.toNat with
  | 0 => .booting
  | 1 => .filterConfig
  | 2 => .startupTx
  | 3 => .relayPoll
  | 4 => .relayFetch
  | 5 => .relayXform
  | 6 => .relayTx
  | _ => .halted

/-- The micro-operation a sequencer state selects (30_encoding R80, 42_relay_sequencer R140). -/
def microOp : SeqState → Instr
  | .booting => .sqInit
  | .filterConfig => .sqCfg
  | .startupTx => .sqStx
  | .relayPoll => .sqPoll
  | .relayFetch => .sqFetch
  | .relayXform => .sqXform
  | .relayTx => .sqTx
  | .halted => .sqHalt

/-- Decode an item of any of the three code spaces (30_encoding R70). -/
def decode : CodeWord → Except DecodeError Instr
  | .command bytes => decodeCommand bytes
  | .event bytes => decodeEvent bytes
  | .seqCode c => .ok (microOp (seqOfCode c))

/-- The encoding of an instruction (30_encoding R76, R79, R80). -/
def encode : Instr → CodeWord
  | .initBus n => .command (0x01#8 :: bytesOfWord n)
  | .configureFilters t => .command (0x02#8 :: encodeTable t)
  | .frameAvailable => .command [0x03#8]
  | .receiveFrame => .command [0x04#8]
  | .transmitFrame fr => .command (0x05#8 :: encodeFrame fr)
  | .diagSet b => .command [0x06#8, if b then 0x01#8 else 0x00#8]
  | .diagToggle => .command [0x07#8]
  | .reset => .event [0x80#8]
  | .rxOffer fr => .event (0x81#8 :: encodeFrame fr)
  | .sqInit => .seqCode (seqCode .booting)
  | .sqCfg => .seqCode (seqCode .filterConfig)
  | .sqStx => .seqCode (seqCode .startupTx)
  | .sqPoll => .seqCode (seqCode .relayPoll)
  | .sqFetch => .seqCode (seqCode .relayFetch)
  | .sqXform => .seqCode (seqCode .relayXform)
  | .sqTx => .seqCode (seqCode .relayTx)
  | .sqHalt => .seqCode (seqCode .halted)

/-- The length of a command or event word from its first byte; none for a reserved first byte (30_encoding R82). -/
def wordLength (b : Byte) : Option Nat :=
  match b.toNat with
  | 0x01 => some 5
  | 0x02 => some 33
  | 0x03 => some 1
  | 0x04 => some 1
  | 0x05 => some 14
  | 0x06 => some 2
  | 0x07 => some 1
  | 0x80 => some 1
  | 0x81 => some 14
  | _ => none

/-! ### Response words -/

/-- The byte of a fault code (60_exceptions R171). -/
def faultByte : FaultCode → Byte
  | .fcInit => 0x01#8
  | .fcCfgMode => 0x02#8
  | .fcCfgTable => 0x03#8
  | .fcRx => 0x04#8
  | .fcTx => 0x05#8

/-- The byte of an `RS` response (30_encoding R77). -/
def statusByte : Status → Byte
  | .ok => 0x00#8
  | .fault c => faultByte c

/-- Decode the first byte of an `RS` or `RF` response (30_encoding R77, R81). -/
def decodeStatusByte (b : Byte) : Except DecodeError Status :=
  match b.toNat with
  | 0 => .ok .ok
  | 1 => .ok (.fault .fcInit)
  | 2 => .ok (.fault .fcCfgMode)
  | 3 => .ok (.fault .fcCfgTable)
  | 4 => .ok (.fault .fcRx)
  | 5 => .ok (.fault .fcTx)
  | _ => .error (.reservedResponse b)

/-- An `RS` response word (30_encoding R77). -/
def encodeRS (r : Status) : List Byte := [statusByte r]

/-- Decode an `RS` response word (30_encoding R77). -/
def decodeRS : List Byte → Except DecodeError Status
  | [b] => decodeStatusByte b
  | _ => .error .wrongLength

/-- An `RB` response word (30_encoding R77). -/
def encodeRB (r : Bool) : List Byte := [if r then 0x01#8 else 0x00#8]

/-- Decode an `RB` response word (30_encoding R77, R81). -/
def decodeRB : List Byte → Except DecodeError Bool
  | [b] => if b = 0#8 then .ok false else if b = 1#8 then .ok true else .error (.reservedResponse b)
  | _ => .error .wrongLength

/-- An `RF` response word: 0x00 and the frame image, or one fault byte (30_encoding R77). -/
def encodeRF : FetchResponse → List Byte
  | .ok fr => 0x00#8 :: encodeFrame fr
  | .fault c => [faultByte c]

/-- Decode an `RF` response word (30_encoding R77, R81). -/
def decodeRF : List Byte → Except DecodeError FetchResponse
  | [] => .error .wrongLength
  | b :: rest =>
    match decodeStatusByte b with
    | .ok .ok => (decodeFrame rest).map .ok
    | .ok (.fault c) => if rest = [] then .ok (.fault c) else .error .wrongLength
    | .error e => .error e

/-- The command word and the response word that crossed the interface in a call recorded in `TRACE`; none for the
`RESET` mark (00_scope R14, 30_encoding R76, R77). -/
def traceWords : TraceEntry → Option (CodeWord × List Byte)
  | .initBus n r => some (encode (.initBus n), encodeRS r)
  | .configureFilters t r => some (encode (.configureFilters t), encodeRS r)
  | .frameAvailable r => some (encode .frameAvailable, encodeRB r)
  | .receiveFrame r => some (encode .receiveFrame, encodeRF r)
  | .transmitFrame fr r => some (encode (.transmitFrame fr), encodeRS r)
  | .reset => none

/-! ### Words given as one number, as spec/opcode_table.json numbers their bits -/

/-- The `n` lowest bytes of a number, lowest first. -/
def natBytes : Nat → Nat → List Byte
  | 0, _ => []
  | n + 1, w => BitVec.ofNat 8 w :: natBytes n (w / 256)

/-- The word whose bits are `w`, every bit from `nbits` up being 0, as long as its first byte says (30_encoding R82); one
byte where the first byte is reserved. -/
def tableBytes (nbits w : Nat) : List Byte :=
  let v := w % 2 ^ nbits
  natBytes ((wordLength (BitVec.ofNat 8 v)).getD 1) v

/-- The item a table word spells. The table has three code spaces and `nbits` must tell them apart: a row of at most one
byte whose value is below 8 is read as a sequencer code, any other word by its first byte, 0x80 and above being events
(30_encoding R70; DESIGN CHOICE, log 6). -/
def tableItem (nbits w : Nat) : CodeWord :=
  let v := w % 2 ^ nbits
  if nbits ≤ 8 ∧ v < 8 then .seqCode (BitVec.ofNat 3 v)
  else if v % 256 < 128 then .command (tableBytes nbits w)
  else .event (tableBytes nbits w)

/-- The instruction the decoder reads from a table word of `nbits` bits with value `w`. -/
def decodeTableWord (nbits w : Nat) : Option Instr :=
  match decode (tableItem nbits w) with
  | .ok i => some i
  | .error _ => none

end Sys2Proof
end

