-- ==== Sys2Proof/Machine/State.lean ====
section
/-! DEFINITION. The state of AFRS as plain data (10_state R20 to R39), with the histories (00_scope R14), the wired
parameters (00_scope R8), the `TABLE` ROM (20_memory R51) and the environment's schedule (00_scope R13). -/

namespace Sys2Proof.Machine

/-- Reasons the model stops with a fault. A fault of the SPEC is a response of a call and is data (60_exceptions R175);
only an access to an address the spec says does not exist is a fault of the model. -/
inductive Fault where
  /-- Raised by `romByte`: a read of the `TABLE` ROM above address 31 (20_memory R51, R58). Safe; no instruction makes
  one. -/
  | romAddress (a : Nat)
deriving DecidableEq, Repr

/-- Reasons the model gives a situation no meaning: the spec's `refuse` (00_scope R10). -/
inductive Refusal where
  /-- Raised by an arm of `exec` whose instruction has no meaning yet. Safe. No arm does. -/
  | notModelled (mnemonic : String)
  /-- Raised by `step`: the environment's word is invalid (30_encoding R81, 92_eei_decisions D23). Safe. -/
  | invalidWord (e : DecodeError)
  /-- Raised by `CONFIGURE_FILTERS` with `BUSON = 0` (40_acceptance_filter R106, D24). Safe. -/
  | configureBusOff
  /-- Raised by `RECEIVE_FRAME` with `RXB` empty (41_interface_ops R123, D24). Safe. -/
  | receiveEmpty
  /-- Raised by `TRANSMIT_FRAME` with `BUSON = 0` (41_interface_ops R124, D24). Safe. -/
  | transmitBusOff
  /-- Raised by `TRANSMIT_FRAME` of a frame violating `FrameWF` (41_interface_ops R124, D24). Safe. -/
  | transmitIllFormed
  /-- Raised by `RX_OFFER` of a frame violating `FrameWF` (40_acceptance_filter R104, D23). Safe. -/
  | offerIllFormed
  /-- Raised by `SQ_CFG` when the ROM holds an invalid entry image (30_encoding R73, R81). Safe. -/
  | invalidRomEntry (e : DecodeError)
deriving DecidableEq, Repr

/-- The state of one AFRS block and of its environment. -/
structure State where
  /-- `BUSON` (10_state R21). -/
  buson : Bool
  /-- `BITRATE` (10_state R22). -/
  bitrate : Word32
  /-- `CFGD` (10_state R23). -/
  cfgd : Bool
  /-- The filter register file: `(FX[k], F[k])` and `(MX[g], M[g])` (10_state R24 to R27, 20_memory R52). -/
  filters : Table
  /-- `RXB`, oldest first (10_state R30). -/
  rxb : List Frame
  /-- `SEQ` (10_state R31). -/
  seq : SeqState
  /-- `HF` (10_state R32). -/
  hf : HeldFrame
  /-- `HFV` (10_state R33). -/
  hfv : Bool
  /-- `TXF` (10_state R34). -/
  txf : Bool
  /-- `DIAG` (10_state R35). -/
  diag : Bool
  /-- History `TRACE` (00_scope R14). -/
  trace : List TraceEntry
  /-- History `TXOUT` (00_scope R14). -/
  txout : List TxEntry
  /-- History `DIAGLOG` (00_scope R14). -/
  diaglog : List DiagEntry
  /-- The wired parameters (00_scope R8, 10_state R37). -/
  params : Params
  /-- The cells of the `TABLE` ROM that differ from the deployment image (20_memory R51, log 9). -/
  rom : List Host.Cell
  /-- The model's own: the environment's coming steps and answers (00_scope R13, log 4). -/
  script : List ScheduleLine
  /-- The model's own: number of steps taken; indexes the free values (log 2, 3, 4). -/
  freeIx : Nat
deriving DecidableEq, Repr

/-- The state after reset of a block with parameters `p`: 10_state R39 with empty histories (70_reset_and_hazards R200).
`BITRATE`, the register file and `HF` are unspecified in R39 and hold zero here (DESIGN CHOICE, log 1); the schedule is
empty and no step has been taken (DESIGN CHOICE, log 4). -/
def State.resetWith (p : Params) : State :=
  { buson := false
    bitrate := 0#32
    cfgd := false
    filters :=
      { f0 := { x := false, v := 0#29 }, f1 := { x := false, v := 0#29 }, f2 := { x := false, v := 0#29 },
        f3 := { x := false, v := 0#29 }, f4 := { x := false, v := 0#29 }, f5 := { x := false, v := 0#29 },
        m0 := { x := false, v := 0#29 }, m1 := { x := false, v := 0#29 } }
    rxb := []
    seq := .booting
    hf := { id := 0#29, ext := false, rtr := false, len := 0#4, d0 := 0#8, d1 := 0#8, d2 := 0#8, d3 := 0#8,
            d4 := 0#8, d5 := 0#8, d6 := 0#8, d7 := 0#8 }
    hfv := false
    txf := false
    diag := false
    trace := []
    txout := []
    diaglog := []
    params := p
    rom := []
    script := []
    freeIx := 0 }

/-- The machine right after reset (10_state R39), with the parameters of `Config.params`. -/
def State.reset : State := State.resetWith Config.params

end Sys2Proof.Machine
end

