-- ==== Sys2Proof/Machine/Ops.lean ====
section
/-! DEFINITION. The named operations over the state: results, the `TABLE` ROM, the schedule and its draws, the histories,
the receive buffer, and the reactions to faults (60_exceptions R175 to R179). -/

namespace Sys2Proof.Machine

/-- What an operation inside a step answers. -/
abbrev Result (α : Type) := Host.Outcome α Fault Refusal

/-- Go on with an answer; a fault or a refusal stops the step (00_scope R10). -/
def bindResult {α β : Type} (r : Result α) (f : α → Result β) : Result β :=
  match r with
  | .next a => f a
  | .fault e => .fault e
  | .refused e => .refused e

/-- Keep the state of a call's answer: the response of an operation run on its own is seen in `TRACE` only
(41_interface_ops R120b). -/
def dropResponse {α : Type} (r : Result (α × State)) : Result State := bindResult r fun a => .next a.2

/-! ### The `TABLE` ROM -/

/-- What a ROM cell that is not listed reads as: the deployment image (20_memory R51, 30_encoding R74, log 9). -/
def romDefault (a : Nat) : Byte := Config.romImage.getD a 0#8

/-- The value listed for an address, if any. -/
def romLookup : List Host.Cell → Nat → Option Byte
  | [], _ => none
  | c :: m, a => if c.1 = a then some c.2 else romLookup m a

/-- The byte at a ROM address; addresses above 31 do not exist (20_memory R51, R58). -/
def romByte (m : List Host.Cell) (a : Nat) : Except Fault Byte :=
  if a < Config.romSize then .ok ((romLookup m a).getD (romDefault a)) else .error (.romAddress a)

/-- `MemRead(a, n)` as the bytes read, lowest address first (00_scope R10). -/
def romBytes (m : List Host.Cell) : Nat → Nat → Except Fault (List Byte)
  | _, 0 => .ok []
  | a, n + 1 =>
    match romByte m a, romBytes m (a + 1) n with
    | .ok b, .ok bs => .ok (b :: bs)
    | .error e, _ => .error e
    | _, .error e => .error e

/-- `MemRead(a, n)`: the little-endian unsigned number in the `n` bytes at address `a` (00_scope R10, 20_memory R51). -/
def memRead (m : List Host.Cell) (a n : Nat) : Except Fault Nat := (romBytes m a n).map leNat

/-- Canonical form of the ROM's cell list: addresses strictly rising from `lo`, inside the ROM, and no cell equal to what
an unlisted address reads as. -/
def romWFFrom : Nat → List Host.Cell → Bool
  | _, [] => true
  | lo, c :: m =>
    decide (lo ≤ c.1) && decide (c.1 < Config.romSize) && decide (c.2 ≠ romDefault c.1) && romWFFrom (c.1 + 1) m

/-- `Memory.wf`: the ROM's cell list is in canonical form. -/
def Memory.wf (m : List Host.Cell) : Bool := romWFFrom 0 m

/-- Remove the cell listed for an address. -/
def romErase : List Host.Cell → Nat → List Host.Cell
  | [], _ => []
  | c :: m, a => if c.1 = a then m else c :: romErase m a

/-- List a cell at its place in rising order. -/
def romInsert : List Host.Cell → Nat → Byte → List Host.Cell
  | [], a, b => [(a, b)]
  | c :: m, a, b =>
    if a < c.1 then (a, b) :: c :: m
    else if c.1 = a then (a, b) :: m
    else c :: romInsert m a b

/-- Make a ROM with byte `b` at address `a`: how another table is put into the ROM before power-on (00_scope R8: `TABLE`
may be taken as an argument). No step does this: AFRS has no `MemWrite` (00_scope R10). -/
def romPut (m : List Host.Cell) (a : Nat) (b : Byte) : List Host.Cell :=
  if a < Config.romSize then
    if b = romDefault a then romErase m a else romInsert m a b
  else m

/-- Put bytes into a ROM from address `a` on. -/
def romPutBytes : List Host.Cell → Nat → List Byte → List Host.Cell
  | m, _, [] => m
  | m, a, b :: bs => romPutBytes (romPut m a b) (a + 1) bs

/-- The ROM that holds the image of table `t` (30_encoding R74). -/
def romOfTable (t : Table) : List Host.Cell := romPutBytes [] 0 (encodeTable t)

/-- Entry `j` of the ROM, read as `MemRead(4j, 4)` (20_memory R51); a ROM fault, or an invalid entry image. -/
def romEntry (m : List Host.Cell) (j : Nat) : Except (Fault ⊕ DecodeError) Entry :=
  match memRead m (4 * j) 4 with
  | .ok w => (decodeEntryWord (BitVec.ofNat 32 w)).mapError Sum.inr
  | .error e => .error (.inl e)

/-- The Table decoded from `MemRead(0,4) .. MemRead(28,4)` (42_relay_sequencer R142). An invalid entry image spells no
table: refused (30_encoding R73, R81). -/
def readTable (m : List Host.Cell) : Result Table :=
  match tableFrom (romEntry m) with
  | .ok t => .next t
  | .error (.inl e) => .fault e
  | .error (.inr e) => .refused (.invalidRomEntry e)

/-! ### The schedule and its draws -/

/-- The line that the next step runs: the schedule's first, or, when it is exhausted, a sequencer step whose draws are a
free value (00_scope R13, log 4). -/
def State.line (s : State) : ScheduleLine :=
  match s.script with
  | l :: _ => l
  | [] => .seqStep (Config.freeDraws s.freeIx)

/-- The answers that a schedule line holds. -/
def lineDraws : ScheduleLine → Draws
  | .seqStep d => d
  | .event _ d => d
  | .command _ d => d

/-- `draw X` (00_scope R10): the environment's answers to the step in execution. -/
def State.draws (s : State) : Draws := lineDraws s.line

/-! ### Histories -/

/-- Append one entry to `TRACE` (00_scope R14). -/
def State.traced (s : State) (e : TraceEntry) : State := { s with trace := s.trace ++ [e] }

/-- Append one frame to `TXOUT` (41_interface_ops R124). -/
def State.sent (s : State) (fr : Frame) : State := { s with txout := s.txout ++ [.frame fr] }

/-! ### Reactions to faults: the spec's form of taking an exception and going on (60_exceptions R175, R180) -/

/-- `CFG_REACT()`: the reaction to a Configuration fault (60_exceptions R176, R177). -/
def cfgReact (s : State) : State :=
  match s.params.cfgFault with
  | .retry => s
  | .halt => { s with seq := .halted }

/-- The reaction to a Transient receive fault: back to poll, `HF` and `HFV` as they are (60_exceptions R178). -/
def rxReact (s : State) : State := { s with seq := .relayPoll }

/-- What a transmit response writes into `TXF`: 1 on a fault, nothing on `OK` (60_exceptions R179, 10_state R34). -/
def txReact (r : Status) (s : State) : State :=
  match r with
  | .ok => s
  | .fault _ => { s with txf := true }

/-- `HF` is left with no specified content: a free value (10_state R32, 92_eei_decisions D30, log 3). -/
def releaseHeld (s : State) : State := { s with hf := Config.freeHeld s.freeIx, hfv := false }

end Sys2Proof.Machine
end

