-- ==== Sys2Proof/Machine/Reset.lean ====
section
/-! DEFINITION. The environment event `RESET` (spec file 70_reset_and_hazards.md, R200). -/

namespace Sys2Proof.Machine

/-- `RESET` (70_reset_and_hazards R200). `BITRATE`, the register file and `HF` become unspecified: free values (log 2).
The ROM, the parameters and the histories survive; each history gains the `RESET` mark (00_scope R14). -/
def resetState (s : State) : State :=
  { s with
    buson := false
    cfgd := false
    rxb := []
    seq := .booting
    hfv := false
    txf := false
    diag := false
    bitrate := Config.freeBitRate s.freeIx
    filters := Config.freeFilters s.freeIx
    hf := Config.freeHeld s.freeIx
    trace := s.trace ++ [.reset]
    txout := s.txout ++ [.reset]
    diaglog := s.diaglog ++ [.reset] }

/-- Meaning of `RESET` (70_reset_and_hazards R200). -/
def execReset (s : State) : Result State := .next (resetState s)

end Sys2Proof.Machine
end

