-- ==== Sys2Proof/Machine/Flags.lean ====
section
/-! DEFINITION. The status flags (10_state R36): `BUSON`, `CFGD`, `HFV`, `TXF`, `DIAG`. There are no condition codes and no
arithmetic flags. `TXF` is written by `txReact` (Machine/Ops.lean); the indicator's two operations are here. -/

namespace Sys2Proof.Machine

/-- `DIAG <- b ; DIAGLOG <- DIAGLOG ++ [b]` (41_interface_ops R125). -/
def writeDiag (b : Bool) (s : State) : State := { s with diag := b, diaglog := s.diaglog ++ [.level b] }

/-- `DIAG <- ~DIAG`, the new level logged (41_interface_ops R126). -/
def toggleDiag (s : State) : State := writeDiag (!s.diag) s

/-- `BUSON <- 1 ; BITRATE <- n` (41_interface_ops R121). -/
def setBusOn (n : Word32) (s : State) : State := { s with buson := true, bitrate := n }

/-- All eight register-file entries and `CFGD <- 1`, together (40_acceptance_filter R106, 20_memory R57). -/
def setConfigured (t : Table) (s : State) : State := { s with filters := t, cfgd := true }

/-- `HF <- fr` with zero pads, `HFV <- 1` (42_relay_sequencer R145). -/
def holdFrame (fr : Frame) (s : State) : State := { s with hf := loadHeld fr, hfv := true }

end Sys2Proof.Machine
end

