-- ==== Sys2Proof/Machine/Filter.lean ====
section
/-! DEFINITION. The acceptance filter (spec file 40_acceptance_filter.md): `MATCH`, `GROUP_ACCEPT`, `ACCEPT`, `STORE`,
`CONFIGURE_FILTERS`. -/

namespace Sys2Proof.Machine

/-- `MATCH(fr, k)` under the register file `t` (40_acceptance_filter R101); the field `[w-1:0]` of the compared bits is
taken as an unsigned number (00_scope R9). -/
def matchFilter (t : Table) (fr : Frame) (k : Fin 6) : Bool :=
  let e := filterEntry t k
  if fr.ext != e.x then false
  else decide (((fr.id ^^^ e.v) &&& (maskEntry t (grp k)).v).toNat % 2 ^ widthOf e.x = 0)

/-- `GROUP_ACCEPT(fr, g)` (40_acceptance_filter R102). -/
def groupAccept (t : Table) (fr : Frame) (g : Fin 2) : Bool :=
  match g with
  | 0 => matchFilter t fr 0 || matchFilter t fr 1
  | 1 => matchFilter t fr 2 || matchFilter t fr 3 || matchFilter t fr 4 || matchFilter t fr 5

/-- `ACCEPT(fr)` (40_acceptance_filter R103). -/
def accept (t : Table) (fr : Frame) : Bool := groupAccept t fr 0 || groupAccept t fr 1

/-- `GX[g]`, the width tag of group `g`, defined only when `CFGD = 1` (10_state R28). -/
def groupTag (s : State) (g : Fin 2) : Option Bool := if s.cfgd then some (maskEntry s.filters g).x else none

/-- The buffer after `STORE(fr)` (40_acceptance_filter R105). -/
def storeFrame (p : Params) (rxb : List Frame) (fr : Frame) : List Frame :=
  if rxb.length < p.rxCap then rxb ++ [fr]
  else
    match p.rxOvf with
    | .dropNew => rxb
    | .dropOldest => rxb.tail ++ [fr]
    | .replaceNewest => rxb.dropLast ++ [fr]

/-- Whether an offered frame is stored: the gating branches of `RX_OFFER` (40_acceptance_filter R104). -/
def offerStored (s : State) (fr : Frame) : Bool :=
  if s.buson = false then false
  else if s.cfgd = false then
    match s.params.precfg with
    | .rejectAll => false
    | .draw => s.draws.oPre == .accept
  else accept s.filters fr

/-- `RX_OFFER(fr)` (40_acceptance_filter R104). -/
def offerFrame (fr : Frame) (s : State) : Result State :=
  if frameWF fr = false then .refused .offerIllFormed
  else if offerStored s fr then .next { s with rxb := storeFrame s.params s.rxb fr }
  else .next s

/-- `call CONFIGURE_FILTERS(t)` (40_acceptance_filter R106): the table check comes first and then the draw `o_cfg`. -/
def callConfigureFilters (t : Table) (s : State) : Result (Status × State) :=
  if s.buson = false then .refused .configureBusOff
  else if tableWF t = false then
    .next (.fault .fcCfgTable, s.traced (.configureFilters t (.fault .fcCfgTable)))
  else
    match s.draws.oCfg with
    | .fault => .next (.fault .fcCfgMode, s.traced (.configureFilters t (.fault .fcCfgMode)))
    | .ok => .next (.ok, (setConfigured t s).traced (.configureFilters t .ok))

/-- Meaning of `CONFIGURE_FILTERS` (40_acceptance_filter R106). -/
def execConfigureFilters (t : Table) (s : State) : Result State := dropResponse (callConfigureFilters t s)

/-- Meaning of `RX_OFFER` (40_acceptance_filter R104). -/
def execRxOffer (fr : Frame) (s : State) : Result State := offerFrame fr s

end Sys2Proof.Machine
end

