-- ==== Sys2Proof/Machine/Interface.lean ====
section
/-! DEFINITION. The interface operations of spec file 41_interface_ops.md, as calls (with their response) and as
instructions run on their own. -/

namespace Sys2Proof.Machine

/-- `call INIT_BUS(n)` (41_interface_ops R121). -/
def callInitBus (n : Word32) (s : State) : Result (Status × State) :=
  match s.draws.oInit with
  | .fault => .next (.fault .fcInit, s.traced (.initBus n (.fault .fcInit)))
  | .ok => .next (.ok, (setBusOn n s).traced (.initBus n .ok))

/-- `call FRAME_AVAILABLE()` (41_interface_ops R122). -/
def callFrameAvailable (s : State) : Result (Bool × State) :=
  let a := !s.rxb.isEmpty
  .next (a, s.traced (.frameAvailable a))

/-- `call RECEIVE_FRAME()` (41_interface_ops R123). -/
def callReceiveFrame (s : State) : Result (FetchResponse × State) :=
  match s.rxb with
  | [] => .refused .receiveEmpty
  | fr :: rest =>
    match s.draws.oRx with
    | .ok => .next (.ok fr, { s with rxb := rest }.traced (.receiveFrame (.ok fr)))
    | .fault =>
      let kept := match s.draws.oRxKeep with
        | .keep => fr :: rest
        | .consume => rest
      .next (.fault .fcRx, { s with rxb := kept }.traced (.receiveFrame (.fault .fcRx)))

/-- `call TRANSMIT_FRAME(fr)` (41_interface_ops R124). -/
def callTransmitFrame (fr : Frame) (s : State) : Result (Status × State) :=
  if s.buson = false then .refused .transmitBusOff
  else if frameWF fr = false then .refused .transmitIllFormed
  else
    match s.draws.oTx with
    | .ok => .next (.ok, (s.sent fr).traced (.transmitFrame fr .ok))
    | .fault => .next (.fault .fcTx, s.traced (.transmitFrame fr (.fault .fcTx)))

/-- Meaning of `INIT_BUS` (41_interface_ops R121). -/
def execInitBus (n : Word32) (s : State) : Result State := dropResponse (callInitBus n s)

/-- Meaning of `FRAME_AVAILABLE` (41_interface_ops R122). -/
def execFrameAvailable (s : State) : Result State := dropResponse (callFrameAvailable s)

/-- Meaning of `RECEIVE_FRAME` (41_interface_ops R123). -/
def execReceiveFrame (s : State) : Result State := dropResponse (callReceiveFrame s)

/-- Meaning of `TRANSMIT_FRAME` (41_interface_ops R124). The operation itself writes no flag. -/
def execTransmitFrame (fr : Frame) (s : State) : Result State := dropResponse (callTransmitFrame fr s)

/-- Meaning of `DIAG_SET` (41_interface_ops R125). -/
def execDiagSet (b : Bool) (s : State) : Result State := .next (writeDiag b s)

/-- Meaning of `DIAG_TOGGLE` (41_interface_ops R126). -/
def execDiagToggle (s : State) : Result State := .next (toggleDiag s)

end Sys2Proof.Machine
end

