-- ==== Sys2Proof/Machine/Sequencer.lean ====
section
/-! DEFINITION. The relay sequencer (spec file 42_relay_sequencer.md): the identifier transform and the eight
micro-operations. -/

namespace Sys2Proof.Machine

/-- `XFORM(id, e)`: new identifier and keep flag, from the exact sum (42_relay_sequencer R149). -/
def xform (p : IdOvfPolicy) (id : Ident) (e : Bool) : Ident × Bool :=
  let w := widthOf e
  let sum := id.toNat + Config.relayOffset
  let ovf := decide (sum > 2 ^ w - 1)
  match p with
  | .wrap => (BitVec.ofNat 29 (sum % 2 ^ w), true)
  | .saturate => (BitVec.ofNat 29 (if ovf then 2 ^ w - 1 else sum), true)
  | .reject => (BitVec.ofNat 29 sum, !ovf)

/-- Meaning of `SQ_INIT` (42_relay_sequencer R141). -/
def execSqInit (s : State) : Result State :=
  bindResult (callInitBus Config.bitRate s) fun a =>
    match a.1 with
    | .ok => .next { toggleDiag a.2 with seq := .filterConfig }
    | .fault _ => .next (cfgReact a.2)

/-- Meaning of `SQ_CFG` (42_relay_sequencer R142). -/
def execSqCfg (s : State) : Result State :=
  bindResult (readTable s.rom) fun t =>
    bindResult (callConfigureFilters t s) fun a =>
      match a.1 with
      | .ok => .next { toggleDiag a.2 with seq := .startupTx }
      | .fault _ => .next (cfgReact a.2)

/-- Meaning of `SQ_STX` (42_relay_sequencer R143): `HF` is loaded with `DIAG_FRAME`, transmitted, and left unspecified. -/
def execSqStx (s : State) : Result State :=
  let h := loadHeld Config.diagFrame
  bindResult (callTransmitFrame (heldFrame h) { s with hf := h }) fun a =>
    .next { toggleDiag (releaseHeld (txReact a.1 a.2)) with seq := .relayPoll }

/-- Meaning of `SQ_POLL` (42_relay_sequencer R144). -/
def execSqPoll (s : State) : Result State :=
  bindResult (callFrameAvailable s) fun a =>
    .next { a.2 with seq := if a.1 then .relayFetch else .relayPoll }

/-- Meaning of `SQ_FETCH` (42_relay_sequencer R145). -/
def execSqFetch (s : State) : Result State :=
  bindResult (callReceiveFrame s) fun a =>
    match a.1 with
    | .ok fr => .next { holdFrame fr a.2 with seq := .relayXform }
    | .fault _ => .next (rxReact a.2)

/-- Meaning of `SQ_XFORM` (42_relay_sequencer R146). -/
def execSqXform (s : State) : Result State :=
  let r := xform s.params.idOvf s.hf.id s.hf.ext
  if r.2 then .next { s with hf := { s.hf with id := r.1 }, seq := .relayTx }
  else .next { s with hfv := false, seq := .relayPoll }

/-- Meaning of `SQ_TX` (42_relay_sequencer R147): the held frame is transmitted and `HF` is left unspecified. -/
def execSqTx (s : State) : Result State :=
  bindResult (callTransmitFrame (heldFrame s.hf) s) fun a =>
    .next { releaseHeld (txReact a.1 a.2) with seq := .relayPoll }

/-- Meaning of `SQ_HALT` (42_relay_sequencer R148). -/
def execSqHalt (s : State) : Result State := .next { s with seq := .halted }

end Sys2Proof.Machine
end

