-- ==== Sys2Proof/Machine/Dispatch.lean ====
section
/-! DEFINITION. One arm per constructor of Instr, each one direct call of the instruction's meaning. -/

namespace Sys2Proof.Machine

def exec (i : Instr) (s : State) : Host.Outcome State Fault Refusal :=
  match i with
  -- interface operations (30_encoding R76)
  | .initBus n => Sys2Proof.Machine.execInitBus n s
  | .configureFilters t => Sys2Proof.Machine.execConfigureFilters t s
  | .frameAvailable => Sys2Proof.Machine.execFrameAvailable s
  | .receiveFrame => Sys2Proof.Machine.execReceiveFrame s
  | .transmitFrame fr => Sys2Proof.Machine.execTransmitFrame fr s
  | .diagSet b => Sys2Proof.Machine.execDiagSet b s
  | .diagToggle => Sys2Proof.Machine.execDiagToggle s
  -- environment events (30_encoding R79)
  | .reset => Sys2Proof.Machine.execReset s
  | .rxOffer fr => Sys2Proof.Machine.execRxOffer fr s
  -- micro-operations (30_encoding R80)
  | .sqInit => Sys2Proof.Machine.execSqInit s
  | .sqCfg => Sys2Proof.Machine.execSqCfg s
  | .sqStx => Sys2Proof.Machine.execSqStx s
  | .sqPoll => Sys2Proof.Machine.execSqPoll s
  | .sqFetch => Sys2Proof.Machine.execSqFetch s
  | .sqXform => Sys2Proof.Machine.execSqXform s
  | .sqTx => Sys2Proof.Machine.execSqTx s
  | .sqHalt => Sys2Proof.Machine.execSqHalt s

end Sys2Proof.Machine
end

