-- ==== Sys2Proof/Machine/Fetch.lean ====
section
/-! DEFINITION. What a step runs, and what it does to the schedule (00_scope R13, 42_relay_sequencer R140). -/

namespace Sys2Proof.Machine

/-- The instruction of the next step: on a sequencer line the micro-operation that `SEQ` selects (42_relay_sequencer
R140), on an event or command line the decoded word (30_encoding R76, R79). -/
def fetched (s : State) : Except DecodeError Instr :=
  match s.line with
  | .seqStep _ => decode (.seqCode (seqCode s.seq))
  | .event bytes _ => decode (.event bytes)
  | .command bytes _ => decode (.command bytes)

/-- The line has been run: the schedule moves on by one and one more step has been taken. -/
def advance (s : State) : State := { s with script := s.script.tail, freeIx := s.freeIx + 1 }

/-- Answers with which every placed instruction goes through: every draw `OK`, `KEEP`, `ACCEPT` (log 8). -/
def okDraws : Draws := { oInit := .ok, oCfg := .ok, oRx := .ok, oRxKeep := .keep, oTx := .ok, oPre := .accept }

/-- Place an item where the next step takes its instruction: a word becomes the schedule's first line; a sequencer code is
put into `SEQ` and a sequencer step becomes the first line (log 7, 8). -/
def placeItem (s : State) (item : CodeWord) : State :=
  match item with
  | .command bytes => { s with script := .command bytes okDraws :: s.script }
  | .event bytes => { s with script := .event bytes okDraws :: s.script }
  | .seqCode c => { s with seq := seqOfCode c, script := .seqStep okDraws :: s.script }

/-- Place a word that is given as one number (see `tableItem`). -/
def placeWord (s : State) (nbits w : Nat) : State := placeItem s (tableItem nbits w)

end Sys2Proof.Machine
end

