-- ==== Sys2Proof/Machine/Step.lean ====
section
/-! DEFINITION. One step of AFRS: exactly one line of the schedule (00_scope R13). -/

namespace Sys2Proof.Machine

/-- One step (00_scope R13): the fetched instruction is executed and the schedule moves on by one line. An invalid word is
refused (30_encoding R81). -/
def step (s : State) : Host.Outcome State Fault Refusal :=
  match fetched s with
  | .error e => .refused (.invalidWord e)
  | .ok i => bindResult (exec i s) fun t => .next (advance t)

/-- `s` with the instruction of a table word placed where the next step takes its instruction. -/
def State.withFetchWord (s : State) (nbits w : Nat) : State := placeWord s nbits w

end Sys2Proof.Machine
end

