-- ==== Sys2Proof/Machine/Script.lean ====
section
/-! DEFINITION. The textual notation of 30_encoding R83 (reading stimulus lines, writing `TRACE` listings) and the
pseudo-operations of R84. No step reads this file. -/

namespace Sys2Proof.Machine

/-! ### Pseudo-operations (30_encoding R84) -/

/-- `boot_ok`: three sequencer steps whose draws are `OK`. -/
def bootOk : List ScheduleLine := [.seqStep okDraws, .seqStep okDraws, .seqStep okDraws]

/-- `relay_ok`: poll, fetch, transform, transmit, with every draw `OK`. -/
def relayOk : List ScheduleLine := [.seqStep okDraws, .seqStep okDraws, .seqStep okDraws, .seqStep okDraws]

/-- `idle`: one poll. -/
def idleStep : List ScheduleLine := [.seqStep okDraws]

/-- `RELAYING`: ACL's single steady state is any of `SEQ` in 3, 4, 5, 6 (30_encoding R84, 10_state R31). -/
def relaying (q : SeqState) : Bool :=
  match q with
  | .relayPoll | .relayFetch | .relayXform | .relayTx => true
  | .booting | .filterConfig | .startupTx | .halted => false

/-- The event line `rx_offer fr`. -/
def offerLine (fr : Frame) (d : Draws) : ScheduleLine := .event (0x81#8 :: encodeFrame fr) d

/-- The event line `reset`. -/
def resetLine (d : Draws) : ScheduleLine := .event [0x80#8] d

/-! ### Which draws a step takes (the "Draws taken" of 41_interface_ops, 42_relay_sequencer, 40_acceptance_filter) -/

/-- The names of the draws (00_scope R13). -/
inductive DrawName where
  | oInit | oCfg | oRx | oRxKeep | oTx | oPre
deriving DecidableEq, Repr

/-- The draw `o_cfg` is not taken when the table is ill-formed (40_acceptance_filter R106). -/
def cfgDraws (t : Result Table) : List DrawName :=
  match t with
  | .next tb => if tableWF tb = true then [.oCfg] else []
  | _ => []

/-- The draw `o_rxkeep` is taken when `o_rx` answers `FAULT` (41_interface_ops R123). -/
def rxDraws (d : Draws) : List DrawName :=
  match d.oRx with
  | .ok => [.oRx]
  | .fault => [.oRx, .oRxKeep]

/-- The draw `o_pre` is taken only by an offer seen before the table is installed, under `DRAW` (40_acceptance_filter
R104). -/
def preDraws (s : State) : List DrawName :=
  if s.buson = true ∧ s.cfgd = false ∧ s.params.precfg = .draw then [.oPre] else []

/-- The draws that an instruction takes in a state whose environment answers are `d`. -/
def drawsTaken (i : Instr) (s : State) (d : Draws) : List DrawName :=
  match i with
  | .initBus _ | .sqInit => [.oInit]
  | .configureFilters t => cfgDraws (.next t)
  | .sqCfg => cfgDraws (readTable s.rom)
  | .receiveFrame | .sqFetch => rxDraws d
  | .transmitFrame _ | .sqStx | .sqTx => [.oTx]
  | .rxOffer _ => preDraws s
  | .frameAvailable | .diagSet _ | .diagToggle | .reset | .sqPoll | .sqXform | .sqHalt => []

/-- Two sets of answers give the same answer to a draw. -/
def sameAnswer (d d' : Draws) (n : DrawName) : Prop :=
  match n with
  | .oInit => d.oInit = d'.oInit
  | .oCfg => d.oCfg = d'.oCfg
  | .oRx => d.oRx = d'.oRx
  | .oRxKeep => d.oRxKeep = d'.oRxKeep
  | .oTx => d.oTx = d'.oTx
  | .oPre => d.oPre = d'.oPre

/-! ### Reading (30_encoding R83) -/

/-- Close the token read so far (held in reverse). -/
def closeToken (cur : List Char) (rest : List (List Char)) : List (List Char) :=
  if cur = [] then rest else cur.reverse :: rest

/-- Tokens of a line: separated by spaces; each bracket is a token of its own. -/
def lexLine : List Char → List Char → List (List Char)
  | cur, [] => closeToken cur []
  | cur, c :: cs =>
    if c = ' ' then closeToken cur (lexLine [] cs)
    else if c = '[' ∨ c = ']' then closeToken cur ([c] :: lexLine [] cs)
    else lexLine (c :: cur) cs

/-- The value of a hexadecimal digit. -/
def hexValue (c : Char) : Option Nat :=
  let n := c.toNat
  if 48 ≤ n ∧ n ≤ 57 then some (n - 48)
  else if 65 ≤ n ∧ n ≤ 70 then some (n - 55)
  else if 97 ≤ n ∧ n ≤ 102 then some (n - 87)
  else none

/-- The number that digits spell after the value `acc`. -/
def hexFrom : Nat → List Char → Option Nat
  | acc, [] => some acc
  | acc, c :: cs =>
    match hexValue c with
    | some d => hexFrom (16 * acc + d) cs
    | none => none

/-- A hexadecimal number of at least one digit. -/
def hexNumber (cs : List Char) : Option Nat := if cs = [] then none else hexFrom 0 cs

/-- What follows a prefix. -/
def afterPrefix : List Char → List Char → Option (List Char)
  | [], cs => some cs
  | _ :: _, [] => none
  | p :: ps, c :: cs => if p = c then afterPrefix ps cs else none

/-- `("std" | "ext") ":" hex`: width tag and value; a value beyond 29 bits spells nothing. -/
def readTagged (tok : List Char) : Option (Bool × Ident) :=
  let value := fun (cs : List Char) =>
    match hexNumber cs with
    | some n => if n < 2 ^ 29 then some (BitVec.ofNat 29 n) else none
    | none => none
  match afterPrefix "std:0x".toList tok, afterPrefix "ext:0x".toList tok with
  | some cs, _ => (value cs).map fun v => (false, v)
  | _, some cs => (value cs).map fun v => (true, v)
  | none, none => none

/-- Bytes up to the closing bracket, two hexadecimal digits each. -/
def readBytes : List (List Char) → Option (List Byte × List (List Char))
  | [] => none
  | tok :: rest =>
    if tok = [']'] then some ([], rest)
    else if tok.length = 2 then
      match hexNumber tok, readBytes rest with
      | some n, some (bs, more) => some (BitVec.ofNat 8 n :: bs, more)
      | _, _ => none
    else none

/-- `frame`: tag and identifier, optional `rtr`, payload in brackets; `len` is the number of bytes listed. -/
def readFrame : List (List Char) → Option (Frame × List (List Char))
  | [] => none
  | tok :: rest =>
    let rtr := decide (rest.head? = some "rtr".toList)
    let rest' := if rtr then rest.tail else rest
    match readTagged tok, rest' with
    | some (x, v), lb :: body =>
      if lb = ['['] then
        match readBytes body with
        | some (bs, more) =>
          if bs.length < 16 then
            some ({ id := v, ext := x, rtr := rtr, len := BitVec.ofNat 4 bs.length, data := bs }, more)
          else none
        | none => none
      else none
    | _, _ => none

/-- One `draw "=" value` of a line. -/
def readDraw (d : Draws) (tok : List Char) : Option Draws :=
  if tok = "o_init=OK".toList then some { d with oInit := .ok }
  else if tok = "o_init=FAULT".toList then some { d with oInit := .fault }
  else if tok = "o_cfg=OK".toList then some { d with oCfg := .ok }
  else if tok = "o_cfg=FAULT".toList then some { d with oCfg := .fault }
  else if tok = "o_rx=OK".toList then some { d with oRx := .ok }
  else if tok = "o_rx=FAULT".toList then some { d with oRx := .fault }
  else if tok = "o_rxkeep=KEEP".toList then some { d with oRxKeep := .keep }
  else if tok = "o_rxkeep=CONSUME".toList then some { d with oRxKeep := .consume }
  else if tok = "o_tx=OK".toList then some { d with oTx := .ok }
  else if tok = "o_tx=FAULT".toList then some { d with oTx := .fault }
  else none

/-- All draws of a `step` line. The grammar of 30_encoding R83 lets a line name one draw more than once and gives that no
meaning; here the last value named counts (DESIGN CHOICE, log 19). -/
def readDraws : Draws → List (List Char) → Option Draws
  | d, [] => some d
  | d, tok :: rest =>
    match readDraw d tok with
    | some d' => readDraws d' rest
    | none => none

/-- One stimulus line: `step …`, `rx_offer …`, `reset`. A draw that the line does not name is not one its step takes
(R83); the model holds `okDraws` there (log 11). -/
def readLine (cs : List Char) : Option ScheduleLine :=
  match lexLine [] cs with
  | [] => none
  | tok :: rest =>
    if tok = "step".toList then (readDraws okDraws rest).map .seqStep
    else if tok = "reset".toList then (if rest = [] then some (resetLine okDraws) else none)
    else if tok = "rx_offer".toList then
      match readFrame rest with
      | some (fr, []) => some (offerLine fr okDraws)
      | some (fr, [o]) =>
        if o = "o_pre=ACCEPT".toList then some (offerLine fr { okDraws with oPre := .accept })
        else if o = "o_pre=REJECT".toList then some (offerLine fr { okDraws with oPre := .reject })
        else none
      | _ => none
    else none

/-- The draw that a token of a `step` line names. -/
def namedDraw (tok : List Char) : Option DrawName :=
  let starts := fun (p : String) => (afterPrefix p.toList tok).isSome
  if starts "o_init=" then some .oInit
  else if starts "o_cfg=" then some .oCfg
  else if starts "o_rx=" then some .oRx
  else if starts "o_rxkeep=" then some .oRxKeep
  else if starts "o_tx=" then some .oTx
  else none

/-- Naming a draw that the step does not take is an error of the script (30_encoding R83): whether the `step` line `l`
may stand where the machine is in state `s`. Lines of other kinds may. -/
def stepLineFits (s : State) (l : String) : Bool :=
  match readLine l.toList with
  | none => false
  | some (.seqStep d) =>
    (lexLine [] l.toList).tail.all fun tok =>
      match namedDraw tok with
      | some n => (drawsTaken (microOp s.seq) s d).contains n
      | none => false
  | some _ => true

/-- A script: one line per step, all of them readable. -/
def readScript : List String → Option (List ScheduleLine)
  | [] => some []
  | l :: ls =>
    match readLine l.toList, readScript ls with
    | some x, some xs => some (x :: xs)
    | _, _ => none

/-! ### Writing (30_encoding R83: `call` lines of a `TRACE` listing) -/

/-- The digit of a value below 16. -/
def digitChar (n : Nat) : Char := if n < 10 then Char.ofNat (48 + n) else Char.ofNat (55 + n)

/-- Digits of `n` in base `base`, at least `width` of them, at most `fuel`, before the digits `acc`. -/
def digitsAux (base : Nat) : Nat → Nat → Nat → List Char → List Char
  | 0, _, _, acc => acc
  | fuel + 1, width, n, acc =>
    if n = 0 ∧ width = 0 then acc else digitsAux base fuel (width - 1) (n / base) (digitChar (n % base) :: acc)

/-- `("std" | "ext") ":" hex`, with at least three digits (the number of digits is not significant,
95_test_vectors.md). -/
def showTagged (x : Bool) (v : Ident) : String :=
  (if x then "ext:0x" else "std:0x") ++ String.ofList (digitsAux 16 8 3 v.toNat [])

/-- Payload bytes separated by one space. -/
def showBytes : List Byte → String
  | [] => ""
  | [b] => String.ofList (digitsAux 16 2 2 b.toNat [])
  | b :: bs => String.ofList (digitsAux 16 2 2 b.toNat []) ++ " " ++ showBytes bs

/-- `frame`. -/
def showFrame (fr : Frame) : String :=
  showTagged fr.ext fr.id ++ (if fr.rtr then " rtr [" else " [") ++ showBytes fr.data ++ "]"

/-- `entry`. -/
def showEntry (e : Entry) : String := showTagged e.x e.v

/-- A decimal number. -/
def showDec (n : Nat) : String := String.ofList (digitsAux 10 10 1 n [])

/-- A response of form `RS`. -/
def showStatus : Status → String
  | .ok => "OK"
  | .fault c => "FAULT " ++ String.ofList (digitsAux 16 2 2 (faultByte c).toNat [])

/-- The eight entries of a table, named in table order. -/
def showTable (t : Table) : String :=
  "F0=" ++ showEntry t.f0 ++ " F1=" ++ showEntry t.f1 ++ " F2=" ++ showEntry t.f2 ++ " F3=" ++ showEntry t.f3 ++
    " F4=" ++ showEntry t.f4 ++ " F5=" ++ showEntry t.f5 ++ " M0=" ++ showEntry t.m0 ++ " M1=" ++ showEntry t.m1

/-- The `call` line of an interface operation, without a response (30_encoding R83). -/
def showOperation : Instr → Option String
  | .initBus n => some ("init_bus " ++ showDec n.toNat)
  | .configureFilters t => some ("configure_filters " ++ showTable t)
  | .frameAvailable => some "frame_available"
  | .receiveFrame => some "receive_frame"
  | .transmitFrame fr => some ("transmit_frame " ++ showFrame fr)
  | .diagSet b => some (if b then "diag_set 1" else "diag_set 0")
  | .diagToggle => some "diag_toggle"
  | .reset | .rxOffer _ | .sqInit | .sqCfg | .sqStx | .sqPoll | .sqFetch | .sqXform | .sqTx | .sqHalt => none

/-- One `call -> response` line of a `TRACE` listing; a `RESET` mark is written `RESET`. -/
def showTraceEntry : TraceEntry → String
  | .initBus n r => "init_bus " ++ showDec n.toNat ++ " -> " ++ showStatus r
  | .configureFilters t r => "configure_filters " ++ showTable t ++ " -> " ++ showStatus r
  | .frameAvailable r => "frame_available -> " ++ (if r then "true" else "false")
  | .receiveFrame (.ok fr) => "receive_frame -> OK " ++ showFrame fr
  | .receiveFrame (.fault c) => "receive_frame -> " ++ showStatus (.fault c)
  | .transmitFrame fr r => "transmit_frame " ++ showFrame fr ++ " -> " ++ showStatus r
  | .reset => "RESET"

end Sys2Proof.Machine
end

