-- ==== Sys2Proof/Safety.lean ====
section
/-! DEFINITION. What a safe run of AFRS keeps: the invariants of reachable states (10_state R40), the course of the calls
in `TRACE` (42_relay_sequencer R151 to R153), the indicator's signature (60_exceptions R183), and the agreement of the
histories (00_scope R14). -/

namespace Sys2Proof.Machine

/-- The sequencer states in which the table is installed (10_state R40 b). -/
def configuredSeq (q : SeqState) : Bool :=
  match q with
  | .startupTx | .relayPoll | .relayFetch | .relayXform | .relayTx => true
  | .booting | .filterConfig | .halted => false

/-- The sequencer states in which a fetched frame is held (10_state R40 c). -/
def holdingSeq (q : SeqState) : Bool :=
  match q with
  | .relayXform | .relayTx => true
  | .booting | .filterConfig | .startupTx | .relayPoll | .relayFetch | .halted => false

/-- A line that the real environment can make: not a command word, which only the sequencer issues (41_interface_ops
R120c, log 7). -/
def fromEnvironment (l : ScheduleLine) : Bool :=
  match l with
  | .seqStep _ => true
  | .event _ _ => true
  | .command _ _ => false

/-- The levels written to the indicator since the last reset (60_exceptions R183). -/
def levelsSinceReset (log : List DiagEntry) : List Bool :=
  log.foldl (fun acc e => match e with | .level b => acc ++ [b] | .reset => []) []

/-- The levels written so far in each sequencer state (60_exceptions R183); in `HALTED` the stop was in
`FILTER_CONFIG` exactly when the bus was initialised. -/
def indicatorSignature (s : State) : List Bool :=
  match s.seq with
  | .booting => []
  | .filterConfig => [true]
  | .startupTx => [true, false]
  | .relayPoll | .relayFetch | .relayXform | .relayTx => [true, false, true]
  | .halted => if s.buson then [true] else []

/-- The invariants of reachable states (10_state R40, strengthened so that every step keeps them). -/
structure Inv (s : State) : Prop where
  /-- The table is installed exactly from `STARTUP_TX` on (R40 a, b). -/
  configured : s.cfgd = configuredSeq s.seq
  /-- The bus is not yet initialised in `BOOTING`. -/
  bus_off : s.seq = .booting → s.buson = false
  /-- The bus is initialised in every state after `BOOTING`, but for a halt (R40 a). -/
  bus_on : s.seq ≠ .booting → s.seq ≠ .halted → s.buson = true
  /-- `HFV = 1` exactly in `RELAY_XFORM` and `RELAY_TX` (R40 c). -/
  held : s.hfv = holdingSeq s.seq
  /-- Every waiting frame is well-formed (R40 d). -/
  buffer_wf : ∀ fr ∈ s.rxb, frameWF fr = true
  /-- The held frame is well-formed (R40 d). -/
  held_wf : s.hfv = true → frameWF (heldFrame s.hf) = true
  /-- The buffer is within its capacity (R40 e). -/
  buffer_cap : s.rxb.length ≤ s.params.rxCap
  /-- A fetch finds a frame (R40 f). -/
  fetch_ready : s.seq = .relayFetch → s.rxb ≠ []
  /-- Under `REJECT_ALL` every waiting frame was accepted by the installed table (R40 g). -/
  buffer_accepted : s.params.precfg = .rejectAll → ∀ fr ∈ s.rxb, s.cfgd = true ∧ accept s.filters fr = true
  /-- The installed table is well-formed and is the ROM's (10_state R29; 00_scope R12). -/
  installed : s.cfgd = true → tableWF s.filters = true ∧ readTable s.rom = .next s.filters
  /-- The indicator shows the boot progress (60_exceptions R183). -/
  indicator : s.diag = (indicatorSignature s).getLastD false
  /-- `RX_CAP >= 1` (00_scope R8). -/
  params_ok : s.params.wf = true
  /-- The ROM's cell list is canonical. -/
  rom_ok : Memory.wf s.rom = true
  /-- The ROM holds a table image (20_memory R51). -/
  rom_table : ∃ t, readTable s.rom = .next t
  /-- The schedule holds only what the environment can do (41_interface_ops R120c). -/
  environment : ∀ l ∈ s.script, fromEnvironment l = true

/-- The frame that the relay owes after a successful fetch; none where `REJECT` drops it (42_relay_sequencer R149,
R152). -/
def relayFrame (p : IdOvfPolicy) (fr : Frame) : Option Frame :=
  let r := xform p fr.id fr.ext
  if r.2 then some { fr with id := r.1 } else none

/-- Where the calls recorded since the last reset have got to (42_relay_sequencer R151 to R153). -/
inductive TracePhase where
  /-- No `init_bus -> OK` yet. -/
  | boot
  /-- `init_bus -> OK`, no `configure_filters -> OK` yet. -/
  | busOn
  /-- `configure_filters -> OK`, the start-up frame not yet transmitted. -/
  | tableIn
  /-- The next call is a poll. -/
  | polling
  /-- The last poll was true: the next call is a fetch. -/
  | available
  /-- A frame was fetched: the next call transmits `fr`. -/
  | owes (fr : Frame)
  /-- A call that the rules do not allow. -/
  | broken
deriving DecidableEq, Repr

/-- How one entry of `TRACE` moves the phase; every call that R151 to R153 do not allow at its place gives `broken`. -/
def traceStep (p : IdOvfPolicy) (table : Result Table) (ph : TracePhase) (e : TraceEntry) : TracePhase :=
  match ph, e with
  | _, .reset => .boot
  | .boot, .initBus n r =>
    if n = Config.bitRate then (match r with | .ok => .busOn | .fault _ => .boot) else .broken
  | .busOn, .configureFilters t r =>
    match table with
    | .next t' => if t = t' then (match r with | .ok => .tableIn | .fault _ => .busOn) else .broken
    | _ => .broken
  | .tableIn, .transmitFrame fr _ => if fr = Config.diagFrame then .polling else .broken
  | .polling, .frameAvailable a => if a then .available else .polling
  | .available, .receiveFrame (.ok fr) =>
    match relayFrame p fr with
    | some out => .owes out
    | none => .polling
  | .available, .receiveFrame (.fault _) => .polling
  | .owes out, .transmitFrame fr _ => if fr = out then .polling else .broken
  | _, _ => .broken

/-- The phase after a whole `TRACE`. -/
def tracePhase (p : IdOvfPolicy) (table : Result Table) (tr : List TraceEntry) : TracePhase :=
  tr.foldl (traceStep p table) .boot

/-- The phase that the sequencer's state stands for; never `broken`. -/
def expectedPhase (s : State) : TracePhase :=
  match s.seq with
  | .booting => .boot
  | .filterConfig => .busOn
  | .startupTx => .tableIn
  | .relayPoll => .polling
  | .relayFetch => .available
  | .relayXform =>
    match relayFrame s.params.idOvf (heldFrame s.hf) with
    | some out => .owes out
    | none => .polling
  | .relayTx => .owes (heldFrame s.hf)
  | .halted => if s.buson then .busOn else .boot

/-- The frames handed to the bus, read off `TRACE` (00_scope R14). -/
def transmitted (tr : List TraceEntry) : List TxEntry :=
  tr.filterMap fun e =>
    match e with
    | .transmitFrame fr .ok => some (.frame fr)
    | .reset => some .reset
    | _ => none

/-- The histories are those of a run by the rules: the calls came in the order of R151 to R153, the indicator's levels
are those of R183, and `TXOUT` holds exactly the transmissions that `TRACE` records as `OK` (R14). -/
structure HistoryInv (s : State) : Prop where
  calls : tracePhase s.params.idOvf (readTable s.rom) s.trace = expectedPhase s
  levels : levelsSinceReset s.diaglog = indicatorSignature s
  sent : s.txout = transmitted s.trace

/-- The step is not stopped: no fault and no refusal. -/
def Completes (s : State) : Prop := ∃ t, step s = .next t

end Sys2Proof.Machine
end

