-- ==== Sys2Proof/Certificates/Slice0/Obligations.lean ====
section
/-! DEFINITION. The statements about this model. Each docstring names the rule of spec/ it formalises. Every statement holds
for every value of the parameters, of the ROM, of the draws (held in the schedule) and of the free values. -/

open Sys2Proof Sys2Proof.Machine

/-! ### Encodings -/

/-- Words written out from 30_encoding R71 to R80 decode to the instructions they stand for. (Basis: spec decisions
D15 to D18.) -/
def Obligations.KnownWordsDecode : Prop :=
  decode (.command [0x01#8, 0x20#8, 0xA1#8, 0x07#8, 0x00#8]) = .ok (.initBus 500000#32) ∧
  decode (.command (0x02#8 :: Config.romImage)) = .ok (.configureFilters Config.table) ∧
  decode (.command [0x05#8, 0x56#8, 0x34#8, 0x12#8, 0x80#8, 0x04#8, 0xDE#8, 0xAD#8, 0xBE#8, 0xEF#8, 0x00#8, 0x00#8,
    0x00#8, 0x00#8]) = .ok (.transmitFrame Config.diagFrame) ∧
  decode (.command [0x06#8, 0x01#8]) = .ok (.diagSet true) ∧
  decode (.event [0x80#8]) = .ok .reset ∧
  decode (.event [0x81#8, 0xFF#8, 0x07#8, 0x00#8, 0x20#8, 0x01#8, 0xAA#8, 0x00#8, 0x00#8, 0x00#8, 0x00#8, 0x00#8,
    0x00#8, 0x00#8]) =
      .ok (.rxOffer { id := 0x7FF#29, ext := false, rtr := true, len := 1#4, data := [0xAA#8] }) ∧
  decode (.seqCode 5#3) = .ok .sqXform

/-- Decode and encode agree: the encoding of every well-formed instruction decodes to it, with every operand
(30_encoding R70 to R80). (Basis: spec decisions D3, D15 to D19.) -/
def Obligations.DecodeEncodeRoundTrip : Prop :=
  ∀ i : Instr, i.wf = true → decode (encode i) = .ok i

/-- Every item that decodes is the encoding of what it decodes to, which is well-formed: no two items spell one
instruction (30_encoding R70 to R81). (Basis: spec decisions D15 to D18.) -/
def Obligations.DecodedItemsReencode : Prop :=
  ∀ (w : CodeWord) (i : Instr), decode w = .ok i → encode i = w ∧ i.wf = true

/-- 30_encoding R72: exactly which 13-byte strings are frame images, what each field is, that the frame is
well-formed, and that the image is a bijection; an operation or event that carries any other string is invalid; no
string of another length is a frame image. (Basis: spec decisions D15, D23.) -/
def Obligations.FrameImagesAreExactlyTheValidStrings : Prop :=
  (∀ b0 b1 b2 b3 lenb d0 d1 d2 d3 d4 d5 d6 d7 : Byte,
    let bytes := [b0, b1, b2, b3, lenb, d0, d1, d2, d3, d4, d5, d6, d7]
    let pay := [d0, d1, d2, d3, d4, d5, d6, d7]
    let idw := leNat [b0, b1, b2, b3]
    let n := lenb.toNat % 16
    let valid := idw.testBit 30 = false ∧ lenb.toNat / 16 = 0 ∧ n ≤ 8 ∧
      (idw.testBit 31 = false → idw / 2 ^ 11 % 2 ^ 18 = 0) ∧ ∀ i, n ≤ i → i ≤ 7 → pay.getD i 0#8 = 0#8
    (valid → ∃ fr, decodeFrame bytes = .ok fr ∧ fr.ext = idw.testBit 31 ∧ fr.rtr = idw.testBit 29 ∧
      fr.id.toNat = idw % 2 ^ 29 ∧ fr.len.toNat = n ∧ fr.data = pay.take n ∧ frameWF fr = true ∧
      encodeFrame fr = bytes) ∧
    (¬ valid → ∃ e, decodeFrame bytes = .error e ∧ decode (.command (0x05#8 :: bytes)) = .error e ∧
      decode (.event (0x81#8 :: bytes)) = .error e)) ∧
  (∀ bytes : List Byte, bytes.length ≠ 13 → ∃ e, decodeFrame bytes = .error e) ∧
  (∀ fr : Frame, frameWF fr = true → decodeFrame (encodeFrame fr) = .ok fr)

/-- 30_encoding R81: reserved operation bytes, event bytes and `DIAG_SET` operands are refused, each by name, whatever
follows; so are reserved response bytes. (Basis: spec decisions D17, D23.) -/
def Obligations.ReservedEncodingsAreInvalid : Prop :=
  (∀ (op : Byte) (rest : List Byte), op = 0#8 ∨ 8 ≤ op.toNat →
    decode (.command (op :: rest)) = .error (.reservedOperation op)) ∧
  (∀ (ev : Byte) (rest : List Byte), ev ≠ 0x80#8 → ev ≠ 0x81#8 →
    decode (.event (ev :: rest)) = .error (.reservedEvent ev)) ∧
  (∀ b : Byte, 2 ≤ b.toNat → decode (.command [0x06#8, b]) = .error (.reservedDiagOperand b)) ∧
  (∀ b : Byte, 6 ≤ b.toNat → decodeRS [b] = .error (.reservedResponse b)) ∧
  (∀ (b : Byte) (rest : List Byte), 6 ≤ b.toNat → decodeRF (b :: rest) = .error (.reservedResponse b)) ∧
  (∀ b : Byte, 2 ≤ b.toNat → decodeRB [b] = .error (.reservedResponse b))

/-- 30_encoding R82: every word that decodes is as long as its first byte alone says, and a word of that first byte
with another length never decodes. (Basis: spec decision D17.) -/
def Obligations.FirstByteFixesTheLength : Prop :=
  (∀ (b : Byte) (bs : List Byte) (i : Instr), decode (.command (b :: bs)) = .ok i →
    (b = 0x01#8 ∧ bs.length + 1 = 5) ∨ (b = 0x02#8 ∧ bs.length + 1 = 33) ∨ (b = 0x03#8 ∧ bs.length + 1 = 1) ∨
    (b = 0x04#8 ∧ bs.length + 1 = 1) ∨ (b = 0x05#8 ∧ bs.length + 1 = 14) ∨ (b = 0x06#8 ∧ bs.length + 1 = 2) ∨
    (b = 0x07#8 ∧ bs.length + 1 = 1)) ∧
  (∀ (b : Byte) (bs : List Byte) (i : Instr), decode (.event (b :: bs)) = .ok i →
    (b = 0x80#8 ∧ bs.length + 1 = 1) ∨ (b = 0x81#8 ∧ bs.length + 1 = 14))

/-- 30_encoding R77: response words are read back as the responses they stand for. (Basis: spec decision D17.) -/
def Obligations.ResponseWordsRoundTrip : Prop :=
  (∀ r : Status, decodeRS (encodeRS r) = .ok r) ∧
  (∀ r : Bool, decodeRB (encodeRB r) = .ok r) ∧
  (∀ c : FaultCode, decodeRF (encodeRF (.fault c)) = .ok (.fault c)) ∧
  (∀ fr : Frame, frameWF fr = true → decodeRF (encodeRF (.ok fr)) = .ok (.ok fr))

/-! ### The `TABLE` ROM -/

/-- 20_memory R51, 30_encoding R73, R74: after reset the ROM holds the deployment table, as the 32 bytes R74 lists;
whatever a ROM holds, the eight little-endian words at bytes 4j to 4j+3 are what is read, and decoded by R73 they are
the entries of the table, in the order of R74; a word with a reserved bit set spells no table and is refused; a ROM
made of a table's image holds that table. (Basis: spec decisions D16, D18; the refusal's place and name are the
model's choice, log 9.) -/
def Obligations.RomHoldsTheDeploymentTable : Prop :=
  readTable State.reset.rom = .next Config.table ∧ encodeTable Config.table = Config.romImage ∧
  (∀ a, a < 32 → romByte State.reset.rom a = .ok (Config.romImage.getD a 0#8)) ∧
  (∀ (m : List Host.Cell) (b : Nat → Byte), (∀ a, a < 32 → romByte m a = .ok (b a)) →
    let word := fun j =>
      (b (4 * j)).toNat + 2 ^ 8 * (b (4 * j + 1)).toNat + 2 ^ 16 * (b (4 * j + 2)).toNat +
        2 ^ 24 * (b (4 * j + 3)).toNat
    (∀ j, j < 8 → memRead m (4 * j) 4 = .ok (word j)) ∧
    ((∀ j, j < 8 → word j / 2 ^ 29 % 4 = 0) → ∃ t, readTable m = .next t ∧
      ∀ j e, [t.f0, t.f1, t.f2, t.f3, t.f4, t.f5, t.m0, t.m1][j]? = some e →
        e.v.toNat = word j % 2 ^ 29 ∧ e.x = (word j).testBit 31) ∧
    ((∃ j, j < 8 ∧ word j / 2 ^ 29 % 4 ≠ 0) → readTable m = .refused (.invalidRomEntry .entryReservedBits))) ∧
  (∀ t : Table, readTable (romOfTable t) = .next t)

/-- 20_memory R51, R58: no byte above address 31 exists (the model's fault for it is log 9's choice), and a read of
four bytes that starts above address 28 runs past the end. (Basis: spec decision D16; the fault is the model's choice,
log 9.) -/
def Obligations.RomEndsAtAddress31 : Prop :=
  (∀ m a, romByte m a = .error (.romAddress a) ↔ 32 ≤ a) ∧
  (∀ m a, a ≤ 28 → ∃ v, memRead m a 4 = .ok v ∧ v < 2 ^ 32) ∧
  (∀ m a, 29 ≤ a → ∃ e, memRead m a 4 = .error e)

/-- 20_memory R51, R61 and 10_state R37: no instruction writes a byte of the ROM or a parameter. Nor does one write
the schedule and the step counter, which are the model's own (DESIGN CHOICE, log 4): no rule of the spec speaks of
them. (Basis: the schedule and the step counter are the model's choice, log 4.) -/
def Obligations.NothingWritesTheRomOrTheParameters : Prop :=
  ∀ (i : Instr) (s t : State), exec i s = .next t →
    (∀ a, romByte t.rom a = romByte s.rom a) ∧ t.params = s.params ∧ t.script = s.script ∧ t.freeIx = s.freeIx

/-! ### The acceptance filter -/

/-- 40_acceptance_filter R101: `MATCH` is the comparison bit by bit under the mask, within the filter's width class.
-/
def Obligations.MatchComparesBitByBit : Prop :=
  ∀ (t : Table) (fr : Frame) (k : Fin 6),
    matchFilter t fr k = true ↔
      fr.ext = (filterEntry t k).x ∧
        ∀ n, n < widthOf (filterEntry t k).x →
          (maskEntry t (grp k)).v.getLsbD n = false ∨ fr.id.getLsbD n = (filterEntry t k).v.getLsbD n

/-- 40_acceptance_filter R102: a group accepts a frame when any of its filters matches it. -/
def Obligations.GroupAcceptsOnAnyOfItsFilters : Prop :=
  ∀ (t : Table) (fr : Frame) (g : Fin 2),
    groupAccept t fr g = true ↔ ∃ k : Fin 6, grp k = g ∧ matchFilter t fr k = true

/-- 40_acceptance_filter R101 corner case e: the filter reads `ext` and `id` only. -/
def Obligations.FilterReadsOnlyWidthAndIdentifier : Prop :=
  ∀ (t : Table) (fr fr' : Frame), fr.ext = fr'.ext → fr.id = fr'.id → accept t fr = accept t fr'

/-- 40_acceptance_filter R107: under a mask of all zeros a group accepts exactly the frames of its width class,
whatever its filter values are. -/
def Obligations.ZeroMaskAcceptsItsWidthClass : Prop :=
  ∀ (s : State) (fr : Frame) (g : Fin 2), s.cfgd = true → tableWF s.filters = true →
    (maskEntry s.filters g).v = 0#29 →
    (groupAccept s.filters fr g = true ↔ groupTag s g = some fr.ext)

/-- 40_acceptance_filter R108: with the deployment table loaded exactly five standard identifiers are accepted, and no
extended one. -/
def Obligations.DeploymentAcceptsFiveIdentifiers : Prop :=
  ∀ fr : Frame, frameWF fr = true →
    (accept Config.table fr = true ↔
      fr.ext = false ∧ (fr.id = 0x000#29 ∨ fr.id = 0x004#29 ∨ fr.id = 0x008#29 ∨ fr.id = 0x00C#29 ∨ fr.id = 0x0FF#29))

/-- 70_reset_and_hazards R208: under the deployment table no accepted frame overflows the transform, so every policy
relays it with its identifier plus 10. -/
def Obligations.DeploymentRelaysPlusTenUnderEveryPolicy : Prop :=
  ∀ (fr : Frame) (p : IdOvfPolicy), frameWF fr = true → accept Config.table fr = true →
    relayFrame p fr = some { fr with id := fr.id + 10#29 }

/-- 70_reset_and_hazards R211: under the deployment table and `WRAP`, the relayed form of a frame is accepted only for
the five identifiers R211 names, none of which is itself accepted: an echoed relay frame dies out. (Basis: spec
decisions D5, D21.) -/
def Obligations.DeploymentEchoesAreRejected : Prop :=
  ∀ fr out : Frame, frameWF fr = true → relayFrame .wrap fr = some out →
    (accept Config.table out = true ↔
      fr.ext = false ∧
        (fr.id = 0x7F6#29 ∨ fr.id = 0x7FA#29 ∨ fr.id = 0x7FE#29 ∨ fr.id = 0x002#29 ∨ fr.id = 0x0F5#29)) ∧
    (accept Config.table fr = true → accept Config.table out = false)

/-- 40_acceptance_filter R105: what `STORE` does with room and without, per policy, and that a full buffer stays full.
(Basis: spec decision D10.) -/
def Obligations.StoreFollowsTheOverflowPolicy : Prop :=
  ∀ (p : Params) (rxb : List Frame) (fr : Frame),
    (rxb.length < p.rxCap → storeFrame p rxb fr = rxb ++ [fr]) ∧
    (p.rxCap ≤ rxb.length → p.rxOvf = .dropNew → storeFrame p rxb fr = rxb) ∧
    (∀ oldest rest, p.rxCap ≤ rxb.length → p.rxOvf = .dropOldest → rxb = oldest :: rest →
      storeFrame p rxb fr = rest ++ [fr]) ∧
    (∀ older newest, p.rxCap ≤ rxb.length → p.rxOvf = .replaceNewest → rxb = older ++ [newest] →
      storeFrame p rxb fr = older ++ [fr]) ∧
    (1 ≤ p.rxCap → rxb.length ≤ p.rxCap → (storeFrame p rxb fr).length = min (rxb.length + 1) p.rxCap)

/-! ### Interface operations and environment events: results, with their frames -/

/-- 41_interface_ops R121: `INIT_BUS` completes in every state; on `OK` it sets `BUSON` and `BITRATE`, on a fault it
writes nothing; `TRACE` gains the call. Everything else is unchanged. Then its words: command and responses. -/
def Obligations.InitBusResult : Prop :=
  (∀ (n : Word32) (s : State),
    exec (.initBus n) s = .next
      (match s.draws.oInit with
       | .ok => { s with buson := true, bitrate := n, trace := s.trace ++ [.initBus n .ok] }
       | .fault => { s with trace := s.trace ++ [.initBus n (.fault .fcInit)] })) ∧
  (∀ n : Word32,
    encode (.initBus n) =
      .command [0x01#8, n.extractLsb' 0 8, n.extractLsb' 8 8, n.extractLsb' 16 8, n.extractLsb' 24 8] ∧
    traceWords (.initBus n .ok) = some (encode (.initBus n), [0x00#8]) ∧
    traceWords (.initBus n (.fault .fcInit)) = some (encode (.initBus n), [0x01#8]))

/-- 40_acceptance_filter R106: `CONFIGURE_FILTERS` completes when the bus is initialised: an ill-formed table answers
0x03 first, then the draw decides; only an `OK` writes the eight entries and `CFGD`. With `BUSON = 0` it is refused.
Then its words. Then 00_scope R12: a table is well-formed exactly when every filter has its group's mask's tag and
every filter and mask value fits the width of its own tag. (Basis: spec decisions D6, D7, D24, D28.) -/
def Obligations.ConfigureFiltersResult : Prop :=
  (∀ (t : Table) (s : State),
    (s.buson = true → exec (.configureFilters t) s = .next
      (if tableWF t = false then { s with trace := s.trace ++ [.configureFilters t (.fault .fcCfgTable)] }
       else match s.draws.oCfg with
         | .ok => { s with filters := t, cfgd := true, trace := s.trace ++ [.configureFilters t .ok] }
         | .fault => { s with trace := s.trace ++ [.configureFilters t (.fault .fcCfgMode)] })) ∧
    (s.buson = false → exec (.configureFilters t) s = .refused .configureBusOff)) ∧
  (∀ t : Table,
    encode (.configureFilters t) = .command (0x02#8 :: encodeTable t) ∧
    traceWords (.configureFilters t .ok) = some (encode (.configureFilters t), [0x00#8]) ∧
    traceWords (.configureFilters t (.fault .fcCfgMode)) = some (encode (.configureFilters t), [0x02#8]) ∧
    traceWords (.configureFilters t (.fault .fcCfgTable)) = some (encode (.configureFilters t), [0x03#8])) ∧
  (∀ t : Table, tableWF t = true ↔
    (∀ e ∈ [t.f0, t.f1], e.x = t.m0.x) ∧ (∀ e ∈ [t.f2, t.f3, t.f4, t.f5], e.x = t.m1.x) ∧
    ∀ e ∈ [t.f0, t.f1, t.f2, t.f3, t.f4, t.f5, t.m0, t.m1], e.v.toNat < 2 ^ (if e.x then 29 else 11))

/-- 41_interface_ops R122: `FRAME_AVAILABLE` completes in every state, tells whether `RXB` is non-empty, and changes
only `TRACE`. Then its words. -/
def Obligations.FrameAvailableResult : Prop :=
  (∀ s : State, exec .frameAvailable s = .next
    { s with trace := s.trace ++ [.frameAvailable (decide (0 < s.rxb.length))] }) ∧
  traceWords (.frameAvailable true) = some (.command [0x03#8], [0x01#8]) ∧
  traceWords (.frameAvailable false) = some (.command [0x03#8], [0x00#8])

/-- 41_interface_ops R123: `RECEIVE_FRAME` with a waiting frame completes: on `OK` it delivers and removes the oldest,
on a fault it removes it or not as the draw says and delivers nothing. With `RXB` empty it is refused. Then its words.
(Basis: spec decisions D10, D11, D24.) -/
def Obligations.ReceiveFrameResult : Prop :=
  (∀ s : State,
    (∀ fr rest, s.rxb = fr :: rest → exec .receiveFrame s = .next
      (match s.draws.oRx, s.draws.oRxKeep with
       | .ok, _ => { s with rxb := rest, trace := s.trace ++ [.receiveFrame (.ok fr)] }
       | .fault, .keep => { s with trace := s.trace ++ [.receiveFrame (.fault .fcRx)] }
       | .fault, .consume => { s with rxb := rest, trace := s.trace ++ [.receiveFrame (.fault .fcRx)] })) ∧
    (s.rxb = [] → exec .receiveFrame s = .refused .receiveEmpty)) ∧
  (∀ fr : Frame, traceWords (.receiveFrame (.ok fr)) = some (.command [0x04#8], 0x00#8 :: encodeFrame fr)) ∧
  traceWords (.receiveFrame (.fault .fcRx)) = some (.command [0x04#8], [0x04#8])

/-- 41_interface_ops R124: `TRANSMIT_FRAME` of a well-formed frame on an initialised bus completes and writes no
state, no flag; `TXOUT` gains the frame on `OK` only. Otherwise it is refused. Then its words. (Basis: spec decisions
D21, D24.) -/
def Obligations.TransmitFrameResult : Prop :=
  (∀ (fr : Frame) (s : State),
    (s.buson = true → frameWF fr = true → exec (.transmitFrame fr) s = .next
      (match s.draws.oTx with
       | .ok => { s with txout := s.txout ++ [.frame fr], trace := s.trace ++ [.transmitFrame fr .ok] }
       | .fault => { s with trace := s.trace ++ [.transmitFrame fr (.fault .fcTx)] })) ∧
    (s.buson = false → exec (.transmitFrame fr) s = .refused .transmitBusOff) ∧
    (s.buson = true → frameWF fr = false → exec (.transmitFrame fr) s = .refused .transmitIllFormed)) ∧
  (∀ fr : Frame,
    traceWords (.transmitFrame fr .ok) = some (.command (0x05#8 :: encodeFrame fr), [0x00#8]) ∧
    traceWords (.transmitFrame fr (.fault .fcTx)) = some (.command (0x05#8 :: encodeFrame fr), [0x05#8]))

/-- 41_interface_ops R125, R126: the two indicator operations complete in every state, write `DIAG` and log the new
level, and change nothing else, `TRACE` included. Then their words, which have no response. (Basis: spec decision
D13.) -/
def Obligations.IndicatorOperationsResult : Prop :=
  (∀ (b : Bool) (s : State),
    exec (.diagSet b) s = .next { s with diag := b, diaglog := s.diaglog ++ [.level b] }) ∧
  (∀ s : State,
    exec .diagToggle s = .next { s with diag := !s.diag, diaglog := s.diaglog ++ [.level (!s.diag)] }) ∧
  encode (.diagSet false) = .command [0x06#8, 0x00#8] ∧ encode (.diagSet true) = .command [0x06#8, 0x01#8] ∧
  encode .diagToggle = .command [0x07#8]

/-- 40_acceptance_filter R104: `RX_OFFER` of a well-formed frame completes in every state and writes `RXB` only, by
the gating branches; an ill-formed frame is refused. Then its event word. (Basis: spec decisions D8, D9, D23.) -/
def Obligations.RxOfferResult : Prop :=
  (∀ (fr : Frame) (s : State),
    (frameWF fr = true → exec (.rxOffer fr) s = .next
      { s with rxb :=
          if s.buson = false then s.rxb
          else if s.cfgd = false then
            (if s.params.precfg = .draw ∧ s.draws.oPre = .accept then storeFrame s.params s.rxb fr else s.rxb)
          else if accept s.filters fr = true then storeFrame s.params s.rxb fr
          else s.rxb }) ∧
    (frameWF fr = false → exec (.rxOffer fr) s = .refused .offerIllFormed)) ∧
  (∀ fr : Frame, encode (.rxOffer fr) = .event (0x81#8 :: encodeFrame fr))

/-- 70_reset_and_hazards R200: `RESET` (event word 80) completes in every state; the fields with a specified reset
value have it, the histories gain the mark, the ROM and the parameters stay; `BITRATE`, the register file and `HF` are
left unspecified (any value). (Basis: spec decisions D13, D20, D29.) -/
def Obligations.ResetResult : Prop :=
  decode (.event [0x80#8]) = .ok .reset ∧
  ∀ s : State, ∃ (n : Word32) (f : Table) (h : HeldFrame),
    exec .reset s = .next
      { s with
        buson := false, cfgd := false, rxb := [], seq := .booting, hfv := false, txf := false, diag := false
        bitrate := n, filters := f, hf := h
        trace := s.trace ++ [.reset], txout := s.txout ++ [.reset], diaglog := s.diaglog ++ [.reset] }

/-- 10_state R39, 70_reset_and_hazards R200, R203 (e): the specified values of the state after reset and the empty
histories. (The values of `BITRATE`, the register file and `HF`, log 1, and of the schedule, log 4, are the model's
and are not stated.) (Basis: spec decisions D13, D20.) -/
def Obligations.StateAfterReset : Prop :=
  ∀ p : Params,
    let s := State.resetWith p
    s.buson = false ∧ s.cfgd = false ∧ s.rxb = [] ∧ s.seq = .booting ∧ seqCode s.seq = 0#3 ∧ s.hfv = false ∧
      s.txf = false ∧ s.diag = false ∧ s.trace = [] ∧ s.txout = [] ∧ s.diaglog = [] ∧ s.params = p

/-! ### Micro-operations: results, with their frames -/

/-- 42_relay_sequencer R141: `SQ_INIT` completes in every state: on `OK` the bus is on at 500000, the indicator
toggles and boot goes on; on a fault only the policy's reaction happens. -/
def Obligations.SqInitResult : Prop :=
  ∀ s : State,
    exec .sqInit s = .next
      (match s.draws.oInit, s.params.cfgFault with
       | .ok, _ =>
         { s with
           buson := true, bitrate := 500000#32, diag := !s.diag, seq := .filterConfig
           trace := s.trace ++ [.initBus 500000#32 .ok], diaglog := s.diaglog ++ [.level (!s.diag)] }
       | .fault, .retry => { s with trace := s.trace ++ [.initBus 500000#32 (.fault .fcInit)] }
       | .fault, .halt => { s with trace := s.trace ++ [.initBus 500000#32 (.fault .fcInit)], seq := .halted })

/-- 42_relay_sequencer R142: `SQ_CFG` on an initialised bus completes: the ROM's table is installed on `OK` and boot
goes on; on either fault nothing is written but `TRACE` and the policy's reaction. With `BUSON = 0` the call is
refused. A ROM that spells no table is refused. (Basis: the refusal with BUSON = 0 is R106's, spec decision D24; the
refusal of a ROM that spells no table is the model's choice, log 9.) -/
def Obligations.SqCfgResult : Prop :=
  (∀ (s : State) (t : Table), readTable s.rom = .next t →
    (s.buson = true → exec .sqCfg s = .next
      (if tableWF t = true ∧ s.draws.oCfg = .ok then
        { s with
          filters := t, cfgd := true, diag := !s.diag, seq := .startupTx
          trace := s.trace ++ [.configureFilters t .ok], diaglog := s.diaglog ++ [.level (!s.diag)] }
       else
        { s with
          trace := s.trace ++
            [.configureFilters t (.fault (if tableWF t = true then .fcCfgMode else .fcCfgTable))]
          seq := match s.params.cfgFault with
            | .retry => s.seq
            | .halt => .halted })) ∧
    (s.buson = false → exec .sqCfg s = .refused .configureBusOff)) ∧
  (∀ (s : State) (e : Refusal), readTable s.rom = .refused e → exec .sqCfg s = .refused e)

/-- 42_relay_sequencer R143: `SQ_STX` on an initialised bus completes whatever the response: `DIAG_FRAME` is
transmitted untransformed, a fault sets `TXF`, the indicator toggles, the relay starts; `HF` is left unspecified.
(Basis: spec decisions D13, D14, D30.) -/
def Obligations.SqStxResult : Prop :=
  ∀ s : State,
    (s.buson = true → ∃ h : HeldFrame, exec .sqStx s = .next
      (match s.draws.oTx with
       | .ok =>
         { s with
           hf := h, hfv := false, diag := !s.diag, seq := .relayPoll
           trace := s.trace ++ [.transmitFrame Config.diagFrame .ok]
           txout := s.txout ++ [.frame Config.diagFrame], diaglog := s.diaglog ++ [.level (!s.diag)] }
       | .fault =>
         { s with
           hf := h, hfv := false, diag := !s.diag, seq := .relayPoll, txf := true
           trace := s.trace ++ [.transmitFrame Config.diagFrame (.fault .fcTx)]
           diaglog := s.diaglog ++ [.level (!s.diag)] })) ∧
    (s.buson = false → exec .sqStx s = .refused .transmitBusOff)

/-- 42_relay_sequencer R144: `SQ_POLL` completes in every state; with `RXB` empty it changes nothing but `TRACE` (and
`SEQ` is the poll state), else it goes to the fetch. -/
def Obligations.SqPollResult : Prop :=
  ∀ s : State,
    (s.rxb = [] →
      exec .sqPoll s = .next { s with trace := s.trace ++ [.frameAvailable false], seq := .relayPoll }) ∧
    (s.rxb ≠ [] →
      exec .sqPoll s = .next { s with trace := s.trace ++ [.frameAvailable true], seq := .relayFetch })

/-- 42_relay_sequencer R145: `SQ_FETCH` with a waiting frame completes: on `OK` the whole frame is held, its pads
zero; on a fault `HF` and `HFV` are as they were and the loop polls again. With `RXB` empty the call is refused.
(Basis: the refusal is R123's, spec decision D24; KEEP and CONSUME are D11, the zero pads D19.) -/
def Obligations.SqFetchResult : Prop :=
  ∀ s : State,
    (∀ fr rest, s.rxb = fr :: rest →
      exec .sqFetch s = .next
        (match s.draws.oRx, s.draws.oRxKeep with
         | .ok, _ =>
           { s with
             rxb := rest, hf := loadHeld fr, hfv := true, seq := .relayXform
             trace := s.trace ++ [.receiveFrame (.ok fr)] }
         | .fault, .keep => { s with seq := .relayPoll, trace := s.trace ++ [.receiveFrame (.fault .fcRx)] }
         | .fault, .consume =>
           { s with rxb := rest, seq := .relayPoll, trace := s.trace ++ [.receiveFrame (.fault .fcRx)] }) ∧
      (∀ i, fr.len.toNat ≤ i → i < 8 → (heldBytes (loadHeld fr)).getD i 1#8 = 0#8) ∧
      (∀ i, i < fr.len.toNat → i < 8 → (heldBytes (loadHeld fr)).getD i 0#8 = fr.data.getD i 0#8) ∧
      (loadHeld fr).id = fr.id ∧ (loadHeld fr).ext = fr.ext ∧ (loadHeld fr).rtr = fr.rtr ∧
      (loadHeld fr).len = fr.len) ∧
    (s.rxb = [] → exec .sqFetch s = .refused .receiveEmpty)

/-- 42_relay_sequencer R146: `SQ_XFORM` completes in every state: it writes the identifier of `HF` and no other field
of it, or drops the frame when the transform does not keep it; `TRACE` is not extended. -/
def Obligations.SqXformResult : Prop :=
  ∀ (s : State) (v : Ident),
    (xform s.params.idOvf s.hf.id s.hf.ext = (v, true) →
      exec .sqXform s = .next { s with hf := { s.hf with id := v }, seq := .relayTx }) ∧
    (xform s.params.idOvf s.hf.id s.hf.ext = (v, false) →
      exec .sqXform s = .next { s with hfv := false, seq := .relayPoll })

/-- 42_relay_sequencer R147: `SQ_TX` with a well-formed held frame on an initialised bus completes whatever the
response: the held frame is transmitted once, a fault sets `TXF`, the loop polls again; `HF` is left unspecified.
(Basis: HF unspecified is R32, spec decision D30; the refusals are R124's, D24.) -/
def Obligations.SqTxResult : Prop :=
  ∀ s : State,
    (s.buson = true → frameWF (heldFrame s.hf) = true → ∃ h : HeldFrame, exec .sqTx s = .next
      (match s.draws.oTx with
       | .ok =>
         { s with
           hf := h, hfv := false, seq := .relayPoll
           trace := s.trace ++ [.transmitFrame (heldFrame s.hf) .ok]
           txout := s.txout ++ [.frame (heldFrame s.hf)] }
       | .fault =>
         { s with
           hf := h, hfv := false, seq := .relayPoll, txf := true
           trace := s.trace ++ [.transmitFrame (heldFrame s.hf) (.fault .fcTx)] })) ∧
    (s.buson = false → exec .sqTx s = .refused .transmitBusOff) ∧
    (s.buson = true → frameWF (heldFrame s.hf) = false → exec .sqTx s = .refused .transmitIllFormed)

/-- 42_relay_sequencer R148: `SQ_HALT` completes in every state and changes no state (`SEQ` is the halt state).
(Basis: spec decisions D3, D4.) -/
def Obligations.SqHaltResult : Prop :=
  (∀ s : State, exec .sqHalt s = .next { s with seq := .halted }) ∧
  (∀ s : State, s.seq = .halted → exec .sqHalt s = .next s)

/-- 42_relay_sequencer R149: the identifier transform under the three policies, without and with overflow, exactly
which identifiers overflow, and that what is kept fits its width class. (Basis: spec decision D5 for the overflow.) -/
def Obligations.TransformAddsTen : Prop :=
  ∀ (id : Ident) (e : Bool), id.toNat < 2 ^ widthOf e →
    (id.toNat + 10 < 2 ^ widthOf e →
      ∀ p, (xform p id e).2 = true ∧ (xform p id e).1.toNat = id.toNat + 10) ∧
    (2 ^ widthOf e ≤ id.toNat + 10 →
      xform .wrap id e = (BitVec.ofNat 29 (id.toNat + 10 - 2 ^ widthOf e), true) ∧
      xform .saturate id e = (BitVec.ofNat 29 (2 ^ widthOf e - 1), true) ∧
      xform .reject id e = (BitVec.ofNat 29 (id.toNat + 10), false)) ∧
    ((xform .reject id e).2 = false ↔
      (e = false ∧ 0x7F6 ≤ id.toNat) ∨ (e = true ∧ 0x1FFFFFF6 ≤ id.toNat)) ∧
    (∀ p, (xform p id e).2 = true → (xform p id e).1.toNat < 2 ^ widthOf e)

/-! ### The step -/

/-- 00_scope R13, 42_relay_sequencer R140, 30_encoding R81: a step is one line of the schedule: the micro-operation
that `SEQ` selects, or the instruction of the word that arrives; after it the schedule has moved on by that line and
one more step is counted. An invalid word is refused. With the schedule exhausted the step is a sequencer step whose
draws are unknown (log 4). (Basis: spec decisions D2, D3, D23; the schedule as data is the model's choice, log 4, and
so are command lines, log 7.) -/
def Obligations.StepRunsTheFetchedInstruction : Prop :=
  (∀ (s : State) (i : Instr), fetched s = .ok i →
    (∀ t, exec i s = .next t → step s = .next { t with script := t.script.tail, freeIx := t.freeIx + 1 }) ∧
    (∀ e, exec i s = .refused e → step s = .refused e)) ∧
  (∀ (s : State) (e : DecodeError), fetched s = .error e → step s = .refused (.invalidWord e)) ∧
  (∀ (s : State) (d : Draws) (rest : List ScheduleLine), s.script = .seqStep d :: rest →
    fetched s = .ok (microOp s.seq) ∧ s.draws = d) ∧
  (∀ (s : State) (bytes : List Byte) (d : Draws) (rest : List ScheduleLine), s.script = .event bytes d :: rest →
    fetched s = decode (.event bytes) ∧ s.draws = d) ∧
  (∀ (s : State) (bytes : List Byte) (d : Draws) (rest : List ScheduleLine), s.script = .command bytes d :: rest →
    fetched s = decode (.command bytes) ∧ s.draws = d) ∧
  (∀ s : State, s.script = [] → fetched s = .ok (microOp s.seq))

/-- 42_relay_sequencer R150: every arc of `SEQ`, and that nothing else changes `SEQ` except `RESET`, which sets 0. -/
def Obligations.SequencerArcs : Prop :=
  (∀ s t : State, exec (microOp s.seq) s = .next t →
    let onFault := match s.params.cfgFault with
      | .retry => s.seq
      | .halt => .halted
    match s.seq with
    | .booting => t.seq = if s.draws.oInit = .ok then .filterConfig else onFault
    | .filterConfig => ∃ tb, readTable s.rom = .next tb ∧
        t.seq = if tableWF tb = true ∧ s.draws.oCfg = .ok then .startupTx else onFault
    | .startupTx => t.seq = .relayPoll
    | .relayPoll => t.seq = if s.rxb = [] then .relayPoll else .relayFetch
    | .relayFetch => t.seq = if s.draws.oRx = .ok then .relayXform else .relayPoll
    | .relayXform => t.seq = if (xform s.params.idOvf s.hf.id s.hf.ext).2 = true then .relayTx else .relayPoll
    | .relayTx => t.seq = .relayPoll
    | .halted => t.seq = .halted) ∧
  (∀ (i : Instr) (s t : State), (∀ q, i ≠ microOp q) → i ≠ .reset → exec i s = .next t → t.seq = s.seq) ∧
  (∀ s t : State, exec .reset s = .next t → t.seq = .booting ∧ seqCode t.seq = 0#3)

/-- 60_exceptions R170, R175, 20_memory R58: AFRS has no trap: no step, from any state at all, ends in a fault of the
model. -/
def Obligations.NoStepFaults : Prop :=
  ∀ (s : State) (e : Fault), step s ≠ .fault e

/-! ### Frames and flags, over all instructions -/

/-- 10_state R35, 60_exceptions R183: `DIAG` and `DIAGLOG` are written only by the indicator operations, the three
boot micro-operations and `RESET`. (Basis: spec decision D13.) -/
def Obligations.OnlyBootWritesTheIndicator : Prop :=
  ∀ (i : Instr) (s t : State), exec i s = .next t → (∀ b, i ≠ .diagSet b) → i ≠ .diagToggle → i ≠ .sqInit →
    i ≠ .sqCfg → i ≠ .sqStx → i ≠ .reset → t.diag = s.diag ∧ t.diaglog = s.diaglog

/-- 10_state R34, 60_exceptions R179: `TXF` is set only by a faulted transmit of `SQ_STX` or `SQ_TX`, and only `RESET`
clears it. (Basis: spec decision D12.) -/
def Obligations.TransmitFaultFlagIsSticky : Prop :=
  ∀ (i : Instr) (s t : State), exec i s = .next t →
    (s.txf = true → i ≠ .reset → t.txf = true) ∧
    (s.txf = false → t.txf = true → (i = .sqStx ∨ i = .sqTx) ∧ s.draws.oTx = .fault)

/-- 10_state R21 to R27, 40_acceptance_filter R110: the bus flags are written only by `INIT_BUS` (alone or in
`SQ_INIT`) and `RESET`; `CFGD` and the register file only by `CONFIGURE_FILTERS` (alone or in `SQ_CFG`) and `RESET`.
-/
def Obligations.OnlyTheirOperationsWriteBusAndFilterRegisters : Prop :=
  ∀ (i : Instr) (s t : State), exec i s = .next t → i ≠ .reset →
    ((∀ n, i ≠ .initBus n) → i ≠ .sqInit → t.buson = s.buson ∧ t.bitrate = s.bitrate) ∧
    ((∀ tb, i ≠ .configureFilters tb) → i ≠ .sqCfg → t.cfgd = s.cfgd ∧ t.filters = s.filters)

/-- 10_state R32, R33: `HF` and `HFV` are written only by `SQ_STX`, `SQ_FETCH`, `SQ_XFORM`, `SQ_TX` and `RESET`; and
`SQ_XFORM` leaves every field of `HF` but the identifier. (Basis: spec decision D30.) -/
def Obligations.OnlyTheRelayWritesTheHeldFrame : Prop :=
  (∀ (i : Instr) (s t : State), exec i s = .next t → i ≠ .sqStx → i ≠ .sqFetch → i ≠ .sqXform → i ≠ .sqTx →
    i ≠ .reset → t.hf = s.hf ∧ t.hfv = s.hfv) ∧
  (∀ s t : State, exec .sqXform s = .next t →
    t.hf.ext = s.hf.ext ∧ t.hf.rtr = s.hf.rtr ∧ t.hf.len = s.hf.len ∧ heldBytes t.hf = heldBytes s.hf)

/-- 10_state R30, 20_memory R53: `RXB` is changed only by `RX_OFFER`, `RECEIVE_FRAME` (alone or in `SQ_FETCH`) and
`RESET`. -/
def Obligations.OnlyOffersAndFetchesChangeTheBuffer : Prop :=
  ∀ (i : Instr) (s t : State), exec i s = .next t → (∀ fr, i ≠ .rxOffer fr) → i ≠ .receiveFrame → i ≠ .sqFetch →
    i ≠ .reset → t.rxb = s.rxb

/-- 00_scope R14: no instruction, `RESET` included, erases anything from a history. (Basis: spec decision D27.) -/
def Obligations.HistoriesOnlyGrow : Prop :=
  ∀ (i : Instr) (s t : State), exec i s = .next t →
    s.trace <+: t.trace ∧ s.txout <+: t.txout ∧ s.diaglog <+: t.diaglog

/-- 00_scope R14: `TXOUT` stays the sequence of frames whose `TRANSMIT_FRAME` entry in `TRACE` is `OK`, with the
`RESET` marks, whatever instruction runs. (Basis: spec decision D27.) -/
def Obligations.TransmitHistoryFollowsTheTrace : Prop :=
  ∀ (i : Instr) (s t : State), exec i s = .next t → s.txout = transmitted s.trace → t.txout = transmitted t.trace

/-- 00_scope R13 and the "Draws taken" of every operation's rule: an instruction reads no answer of the environment
but those of the draws it takes: with other answers to the other draws it does exactly the same. (Basis: the answers
stand on the schedule, which is the model's, log 4.) -/
def Obligations.DrawsNotTakenAreNotRead : Prop :=
  ∀ (i : Instr) (s : State) (l l' : ScheduleLine) (rest : List ScheduleLine), s.script = l :: rest →
    (∀ n ∈ drawsTaken i s (lineDraws l), sameAnswer (lineDraws l) (lineDraws l') n) →
    exec i { s with script := l' :: rest } =
      bindResult (exec i s) fun t => .next { t with script := l' :: rest }

/-- 60_exceptions R174 (a): an offer before or after a transmit gives the same result. -/
def Obligations.OfferAndTransmitCommute : Prop :=
  ∀ (fr : Frame) (s t u : State), exec .sqTx s = .next t → exec (.rxOffer fr) s = .next u →
    ∃ v, exec (.rxOffer fr) t = .next v ∧ exec .sqTx u = .next v

/-- 42_relay_sequencer R148, 60_exceptions R181: from `HALTED` only `RESET` leads out, and a sequencer step there
changes no state. (Basis: spec decisions D3, D4.) -/
def Obligations.OnlyResetLeavesHalted : Prop :=
  (∀ s t : State, s.seq = .halted → step s = .next t →
    (fetched s = .ok .reset ∧ t.seq = .booting) ∨ (fetched s ≠ .ok .reset ∧ t.seq = .halted)) ∧
  (∀ (s : State) (d : Draws) (rest : List ScheduleLine), s.seq = .halted → s.script = .seqStep d :: rest →
    step s = .next { s with script := rest, freeIx := s.freeIx + 1 })

/-! ### Invariants -/

/-- 10_state R40: the invariants hold of the state after reset, whatever the parameters (with `RX_CAP >= 1`). (Basis:
R40 is the spec's own inference; the strengthening is the model's, log 4, 7, 16.) -/
def Obligations.InvariantsHoldAfterReset : Prop :=
  (∀ p : Params, p.wf = true → Inv (State.resetWith p)) ∧ Inv State.reset

/-- 10_state R40: every step keeps the invariants (a) to (g), from every state that has them. (Basis: R40 is the
spec's own inference; the strengthening is the model's, log 4, 7, 16.) -/
def Obligations.EveryStepKeepsTheInvariants : Prop :=
  ∀ s t : State, Inv s → step s = .next t → Inv t

/-- 41_interface_ops R127: from a state with the invariants no step is refused, but for an invalid word of the
environment. (Basis: R127 is the spec's own inference and decision D24.) -/
def Obligations.InvariantStatesNeverRefuse : Prop :=
  ∀ (s : State) (i : Instr), Inv s → fetched s = .ok i → Completes s

/-- 10_state R29, 40_acceptance_filter R110: once installed, the table stays as it is until `RESET`. (Basis: R29 is
the spec's own inference.) -/
def Obligations.InstalledTableIsConstant : Prop :=
  ∀ s t : State, Inv s → s.cfgd = true → step s = .next t → fetched s ≠ .ok .reset →
    t.cfgd = true ∧ t.filters = s.filters

/-- 42_relay_sequencer R151 to R153: the histories' invariants hold of the state after reset. -/
def Obligations.HistoryInvariantsHoldAfterReset : Prop :=
  ∀ p : Params, HistoryInv (State.resetWith p)

/-- 42_relay_sequencer R151 to R153, 60_exceptions R183: every step keeps the calls in the order of the boot and of
the relay: three boot calls, then polls; each fetched frame is followed by exactly one transmit, of that frame with
the transformed identifier (none where `REJECT` drops it), before the next poll; and the indicator's levels are those
of the boot progress. (Basis: R151 to R153 are the spec's own inferences; decisions D5, D13.) -/
def Obligations.EveryStepKeepsTheCallOrder : Prop :=
  ∀ s t : State, Inv s → HistoryInv s → step s = .next t → HistoryInv t

/-- 60_exceptions R183: the ready signature 1, 0, 1 since the last reset is shown exactly when `DIAG = 1` and the
relay runs; it follows that a boot that has stopped does not show it. (Basis: spec decision D13.) -/
def Obligations.ReadySignatureShowsTheRelay : Prop :=
  ∀ s : State, Inv s → HistoryInv s →
    (levelsSinceReset s.diaglog = [true, false, true] ↔ s.diag = true ∧ relaying s.seq = true) ∧
    (s.seq = .booting → levelsSinceReset s.diaglog = []) ∧
    (s.seq = .filterConfig → levelsSinceReset s.diaglog = [true])

/-! ### Runs of a few steps -/

/-- 42_relay_sequencer R151, 30_encoding R84 (`boot_ok`): from `BOOTING`, three sequencer steps with every draw `OK`
over a ROM with a well-formed table make exactly the three boot calls, install the table, toggle the indicator three
times and reach the poll. (Basis: spec decisions D13, D26.) -/
def Obligations.BootReachesTheRelay : Prop :=
  ∀ (s : State) (d1 d2 d3 : Draws) (more : List ScheduleLine) (tb : Table),
    s.seq = .booting → s.script = .seqStep d1 :: .seqStep d2 :: .seqStep d3 :: more →
    d1.oInit = .ok → d2.oCfg = .ok → d3.oTx = .ok → readTable s.rom = .next tb → tableWF tb = true →
    ∃ t : State, Host.Core.run core 3 s = .next t ∧
      t.seq = .relayPoll ∧ t.buson = true ∧ t.bitrate = 500000#32 ∧ t.cfgd = true ∧ t.filters = tb ∧ t.rxb = s.rxb ∧
      t.hfv = false ∧ t.txf = s.txf ∧ t.script = more ∧
      t.trace = s.trace ++
        [.initBus 500000#32 .ok, .configureFilters tb .ok, .transmitFrame Config.diagFrame .ok] ∧
      t.txout = s.txout ++ [.frame Config.diagFrame] ∧
      t.diaglog = s.diaglog ++ [.level (!s.diag), .level s.diag, .level (!s.diag)]

/-- 42_relay_sequencer R152, 30_encoding R84 (`relay_ok`): from a poll with a waiting frame, four sequencer steps
whose fetch and transmit are `OK` poll, fetch, transform and transmit that frame, once, with only its identifier
changed. (Basis: spec decision D5 where the identifier overflows.) -/
def Obligations.RelayTransmitsTheFetchedFrame : Prop :=
  ∀ (s : State) (fr out : Frame) (rest : List Frame) (d1 d2 d3 d4 : Draws) (more : List ScheduleLine),
    Inv s → s.seq = .relayPoll → s.rxb = fr :: rest →
    s.script = .seqStep d1 :: .seqStep d2 :: .seqStep d3 :: .seqStep d4 :: more →
    d2.oRx = .ok → d4.oTx = .ok → relayFrame s.params.idOvf fr = some out →
    out.ext = fr.ext ∧ out.rtr = fr.rtr ∧ out.len = fr.len ∧ out.data = fr.data ∧
    out.id = (xform s.params.idOvf fr.id fr.ext).1 ∧
    ∃ t : State, Host.Core.run core 4 s = .next t ∧
      t.seq = .relayPoll ∧ t.rxb = rest ∧ t.hfv = false ∧ t.txf = s.txf ∧ t.diag = s.diag ∧ t.script = more ∧
      t.trace = s.trace ++ [.frameAvailable true, .receiveFrame (.ok fr), .transmitFrame out .ok] ∧
      t.txout = s.txout ++ [.frame out]

/-- 42_relay_sequencer R145, 60_exceptions R178, 70_reset_and_hazards R205: after a faulted fetch nothing of the frame
is held or transmitted: the next step is a fresh poll, `HF`, `HFV` and `TXOUT` are as before, and the frame waits
again or is gone as the draw says. (Basis: spec decision D11.) -/
def Obligations.FailedFetchTransmitsNothing : Prop :=
  ∀ (s : State) (fr : Frame) (rest : List Frame) (d1 d2 : Draws) (more : List ScheduleLine),
    s.seq = .relayFetch → s.rxb = fr :: rest → s.script = .seqStep d1 :: .seqStep d2 :: more → d1.oRx = .fault →
    ∃ t : State, Host.Core.run core 2 s = .next t ∧
      t.hf = s.hf ∧ t.hfv = s.hfv ∧ t.txout = s.txout ∧ t.txf = s.txf ∧ t.script = more ∧
      t.rxb = (match d1.oRxKeep with | .keep => fr :: rest | .consume => rest) ∧
      t.trace = s.trace ++ [.receiveFrame (.fault .fcRx), .frameAvailable (decide (0 < t.rxb.length))] ∧
      t.seq = if t.rxb = [] then .relayPoll else .relayFetch

/-- 40_acceptance_filter R106 (a), 60_exceptions R177: an ill-formed ROM table never boots: every sequencer step in
`FILTER_CONFIG` answers 0x03 whatever the draw, installs nothing, and stays (`RETRY`) or halts (`HALT`). (Basis: spec
decisions D4, D7, D28.) -/
def Obligations.IllFormedTableNeverBoots : Prop :=
  ∀ (s : State) (d : Draws) (rest : List ScheduleLine) (tb : Table),
    s.seq = .filterConfig → s.buson = true → s.script = .seqStep d :: rest →
    readTable s.rom = .next tb → tableWF tb = false →
    step s = .next
      { s with
        script := rest, freeIx := s.freeIx + 1
        trace := s.trace ++ [.configureFilters tb (.fault .fcCfgTable)]
        seq := match s.params.cfgFault with
          | .retry => .filterConfig
          | .halt => .halted }
end

