-- ==== Sys2Proof/Laws/Operands.lean ====
section
/-! SUPPORT. The small lemmas of the operand forms: byte order, `FrameWF`, and the storage of a frame in `HF`. -/

namespace Sys2Proof

/-- `FrameWF` as its three clauses (00_scope R12). -/
theorem frameWF_iff (fr : Frame) :
    frameWF fr = true ↔ fr.len.toNat ≤ 8 ∧ fr.data.length = fr.len.toNat ∧ fr.id.toNat < 2 ^ widthOf fr.ext := by
  simp only [frameWF, Bool.and_eq_true, decide_eq_true_eq, and_assoc]
  exact Iff.rfl

@[simp] theorem widthOf_false : widthOf false = 11 := rfl

@[simp] theorem widthOf_true : widthOf true = 29 := rfl

/-- The low `w` bits of a bit vector are zero as a number exactly when each of them is zero (00_scope R9). -/
theorem low_bits_zero_iff {m : Nat} (d : BitVec m) (w : Nat) :
    d.toNat % 2 ^ w = 0 ↔ ∀ n, n < w → d.getLsbD n = false := by
  constructor
  · intro h n hn
    have := congrArg (fun x => Nat.testBit x n) h
    simpa [Nat.testBit_mod_two_pow, hn, BitVec.getLsbD] using this
  · intro h
    apply Nat.eq_of_testBit_eq
    intro n
    by_cases hn : n < w
    · simpa [Nat.testBit_mod_two_pow, hn, BitVec.getLsbD] using h n hn
    · simp [Nat.testBit_mod_two_pow, hn]

/-- A word is the word of its four bytes (20_memory R55). -/
theorem wordOfBytes_bytesOfWord (w : Word32) :
    wordOfBytes (w.extractLsb' 0 8) (w.extractLsb' 8 8) (w.extractLsb' 16 8) (w.extractLsb' 24 8) = w := by
  unfold wordOfBytes
  ext i hi
  simp only [BitVec.getElem_append, BitVec.getElem_extractLsb']
  split
  · simp [BitVec.getLsbD_eq_getElem hi]
  · split
    · rw [← BitVec.getLsbD_eq_getElem hi]; congr 1; omega
    · split
      · rw [← BitVec.getLsbD_eq_getElem hi]; congr 1; omega
      · rw [← BitVec.getLsbD_eq_getElem hi]; congr 1; omega

/-- The bytes of a payload, stored with zero pads and cut to its length again, are the payload (92_eei_decisions D19). -/
theorem storedBytes_take (fr : Frame) (hlen : fr.len.toNat ≤ 8) (hdata : fr.data.length = fr.len.toNat) :
    [payloadByte fr 0, payloadByte fr 1, payloadByte fr 2, payloadByte fr 3, payloadByte fr 4, payloadByte fr 5,
      payloadByte fr 6, payloadByte fr 7].take fr.len.toNat = fr.data := by
  apply List.ext_getElem
  · simp; omega
  · intro i h1 h2
    rw [List.getElem_take]
    have hi : i < fr.len.toNat := by omega
    have hp : payloadByte fr i = fr.data[i] := by
      simp [payloadByte, hi, h2]
    rw [← hp]
    have : i < 8 := by omega
    interval_cases i <;> rfl

/-- `HF` loaded with a well-formed frame holds that frame (10_state R32). -/
theorem heldFrame_loadHeld {fr : Frame} (h : frameWF fr = true) : heldFrame (loadHeld fr) = fr := by
  obtain ⟨h1, h2, -⟩ := (frameWF_iff fr).1 h
  simp only [heldFrame, heldBytes, loadHeld, storedBytes_take fr h1 h2]

end Sys2Proof
end

