-- ==== Sys2Proof/Laws/Encoding.lean ====
section
/-! SUPPORT. The bits of the encoded words (spec file 30_encoding.md) and the bytes of the ROM: small lemmas that proofs
about decoding and encoding cite. -/

namespace Sys2Proof

/-- Bit 31, the `ext` and tag position (30_encoding R71, R73), is the only bit of its constant. -/
theorem bit31_getLsbD (n : Nat) : (0x80000000#32).getLsbD n = decide (n = 31) := by
  by_cases h : n < 32
  · interval_cases n <;> rfl
  · rw [BitVec.getLsbD_of_ge _ _ (by omega)]
    symm
    simp
    omega

/-- Bit 29, the `rtr` position (30_encoding R71), is the only bit of its constant. -/
theorem bit29_getLsbD (n : Nat) : (0x20000000#32).getLsbD n = decide (n = 29) := by
  by_cases h : n < 32
  · interval_cases n <;> rfl
  · rw [BitVec.getLsbD_of_ge _ _ (by omega)]
    symm
    simp
    omega

/-- A value of at most 29 bits keeps its bits in a 32-bit word, and adds none. -/
theorem ident_setWidth_getLsbD (v : Ident) (n : Nat) : (v.setWidth 32).getLsbD n = v.getLsbD n := by
  rw [BitVec.getLsbD_setWidth]
  by_cases h : n < 32
  · simp [h]
  · rw [BitVec.getLsbD_of_ge _ _ (by omega)]
    simp

/-- The bits of `IDW`, one by one (30_encoding R71). -/
theorem frameIdWord_getLsbD (fr : Frame) (n : Nat) :
    (frameIdWord fr).getLsbD n = ((fr.ext && decide (n = 31)) || (fr.rtr && decide (n = 29)) || fr.id.getLsbD n) := by
  simp only [frameIdWord, BitVec.getLsbD_or, ident_setWidth_getLsbD]
  cases fr.ext <;> cases fr.rtr <;> simp [bit31_getLsbD, bit29_getLsbD]

/-- The bits of an entry word, one by one (30_encoding R73). -/
theorem entryWord_getLsbD (e : Entry) (n : Nat) :
    (entryWord e).getLsbD n = ((e.x && decide (n = 31)) || e.v.getLsbD n) := by
  simp only [entryWord, BitVec.getLsbD_or, ident_setWidth_getLsbD]
  cases e.x <;> simp [bit31_getLsbD]

/-- `LENB` holds `len` in its low nibble and zeros above (30_encoding R71). -/
theorem lenByte_nibbles (n : BitVec 4) :
    (n.setWidth 8).extractLsb' 4 4 = 0#4 ∧ (n.setWidth 8).extractLsb' 0 4 = n := by
  revert n
  decide

/-- A byte whose high nibble is zero is its low nibble (30_encoding R72). -/
theorem lenByte_of_low_nibble (b : Byte) (h : b.extractLsb' 4 4 = 0#4) : (b.extractLsb' 0 4).setWidth 8 = b := by
  revert b
  decide

/-- The bits of a word assembled from its bytes (30_encoding R78). -/
theorem wordOfBytes_getLsbD (b0 b1 b2 b3 : Byte) (j : Nat) :
    (wordOfBytes b0 b1 b2 b3).getLsbD j =
      if j < 8 then b0.getLsbD j
      else if j < 16 then b1.getLsbD (j - 8)
      else if j < 24 then b2.getLsbD (j - 16)
      else b3.getLsbD (j - 24) := by
  simp only [wordOfBytes, BitVec.getLsbD_append]
  by_cases h1 : j < 8
  · simp [h1]
  · by_cases h2 : j < 16
    · have : j - 8 < 8 := by omega
      simp [h1, h2, this]
    · have h2' : ¬ j - 8 < 8 := by omega
      by_cases h3 : j < 24
      · have : j - 8 - 8 < 8 := by omega
        simp only [h1, h2, h2', h3, this, if_true, if_false]
        congr 1
      · have : ¬ j - 8 - 8 < 8 := by omega
        simp only [h1, h2, h2', h3, this, if_false]
        congr 1

/-- Splitting a word assembled from four bytes gives the four bytes back (20_memory R55, 30_encoding R78). -/
theorem bytesOfWord_wordOfBytes (b0 b1 b2 b3 : Byte) : bytesOfWord (wordOfBytes b0 b1 b2 b3) = [b0, b1, b2, b3] := by
  have h := wordOfBytes_getLsbD b0 b1 b2 b3
  simp only [bytesOfWord]
  refine List.cons_eq_cons.2 ⟨?_, List.cons_eq_cons.2 ⟨?_, List.cons_eq_cons.2 ⟨?_, List.cons_eq_cons.2 ⟨?_, rfl⟩⟩⟩⟩ <;>
    (apply BitVec.eq_of_getLsbD_eq
     intro j hj
     rw [BitVec.getLsbD_extractLsb', h])
  · simp [hj]
  · rw [if_neg (by omega), if_pos (by omega)]
    simp [hj]
  · rw [if_neg (by omega), if_neg (by omega), if_pos (by omega)]
    simp [hj]
  · rw [if_neg (by omega), if_neg (by omega), if_neg (by omega)]
    simp [hj]

/-- The number that four bytes spell is the word assembled from them (00_scope R10, 30_encoding R78). -/
theorem leNat_four (b0 b1 b2 b3 : Byte) : leNat [b0, b1, b2, b3] = (wordOfBytes b0 b1 b2 b3).toNat := by
  simp only [leNat, wordOfBytes, BitVec.toNat_append]
  have h0 := b0.isLt
  have h1 := b1.isLt
  have h2 := b2.isLt
  rw [← Nat.shiftLeft_add_eq_or_of_lt h2, ← Nat.shiftLeft_add_eq_or_of_lt h1, ← Nat.shiftLeft_add_eq_or_of_lt h0]
  simp only [Nat.shiftLeft_eq]
  omega

/-- Little-endian bytes spell a number below 256 to their count (20_memory R55). -/
theorem leNat_lt (bs : List Byte) : leNat bs < 256 ^ bs.length := by
  induction bs with
  | nil => simp [leNat]
  | cons b bs ih =>
    have := b.isLt
    simp only [leNat, List.length_cons, pow_succ]
    omega

/-- A stored payload byte from `len` on is zero (92_eei_decisions D19). -/
theorem payloadByte_of_ge (fr : Frame) (i : Nat) (h : fr.len.toNat ≤ i) : payloadByte fr i = 0#8 := by
  simp [payloadByte, Nat.not_lt.2 h]

/-- A stored payload byte below `len` is the frame's. -/
theorem payloadByte_of_lt (fr : Frame) (i : Nat) (h : i < fr.len.toNat) : payloadByte fr i = fr.data.getD i 0#8 := by
  simp [payloadByte, h]

/-- A mapped answer is an answer. -/
theorem map_eq_ok {ε α β : Type} {f : α → β} {x : Except ε α} {b : β} (h : x.map f = .ok b) :
    ∃ a, x = .ok a ∧ f a = b := by
  cases x with
  | ok a => exact ⟨a, rfl, by cases h; rfl⟩
  | error e => cases h

/-- Every list of bytes inside the ROM can be read, and has as many bytes as were asked for (20_memory R51). -/
theorem Machine.romBytes_inside (m : List Host.Cell) (n a : Nat) (h : a + n ≤ Config.romSize) :
    ∃ bs, Machine.romBytes m a n = .ok bs ∧ bs.length = n := by
  induction n generalizing a with
  | zero => exact ⟨[], rfl, rfl⟩
  | succ n ih =>
    obtain ⟨bs, hb, hl⟩ := ih (a + 1) (by omega)
    have : Machine.romByte m a = .ok ((Machine.romLookup m a).getD (Machine.romDefault a)) := if_pos (by omega)
    exact ⟨(Machine.romLookup m a).getD (Machine.romDefault a) :: bs, by simp only [Machine.romBytes, hb, this],
      by simp [hl]⟩

end Sys2Proof
end

