-- ==== Sys2Proof/Laws/Memory.lean ====
section
/-! SUPPORT. The `TABLE` ROM's cell list: every operation keeps the canonical form, a read after a put gives the byte
put, and every other address reads as before. -/

namespace Sys2Proof.Machine

theorem romWFFrom_mono {m : List Host.Cell} {lo lo' : Nat} (hle : lo' ≤ lo) (h : romWFFrom lo m = true) :
    romWFFrom lo' m = true := by
  cases m with
  | nil => rfl
  | cons c m =>
    simp only [romWFFrom, Bool.and_eq_true, decide_eq_true_eq] at h ⊢
    exact ⟨⟨⟨le_trans hle h.1.1.1, h.1.1.2⟩, h.1.2⟩, h.2⟩

theorem romWFFrom_erase {m : List Host.Cell} {lo a : Nat} (h : romWFFrom lo m = true) :
    romWFFrom lo (romErase m a) = true := by
  induction m generalizing lo with
  | nil => rfl
  | cons c m ih =>
    simp only [romWFFrom, Bool.and_eq_true, decide_eq_true_eq] at h
    unfold romErase
    split
    · exact romWFFrom_mono (by omega) h.2
    · simp only [romWFFrom, Bool.and_eq_true, decide_eq_true_eq]
      exact ⟨h.1, ih h.2⟩

theorem romWFFrom_insert {m : List Host.Cell} {lo a : Nat} {b : Byte} (h : romWFFrom lo m = true) (hlo : lo ≤ a)
    (ha : a < Config.romSize) (hb : b ≠ romDefault a) : romWFFrom lo (romInsert m a b) = true := by
  induction m generalizing lo with
  | nil => simp [romInsert, romWFFrom, hlo, ha, hb]
  | cons c m ih =>
    simp only [romWFFrom, Bool.and_eq_true, decide_eq_true_eq] at h
    unfold romInsert
    split
    · simp only [romWFFrom, Bool.and_eq_true, decide_eq_true_eq]
      exact ⟨⟨⟨hlo, ha⟩, hb⟩, ⟨⟨by omega, h.1.1.2⟩, h.1.2⟩, h.2⟩
    · split
      · rename_i hc
        simp only [romWFFrom, Bool.and_eq_true, decide_eq_true_eq]
        exact ⟨⟨⟨hlo, ha⟩, hb⟩, hc ▸ h.2⟩
      · simp only [romWFFrom, Bool.and_eq_true, decide_eq_true_eq]
        exact ⟨h.1, ih h.2 (by omega)⟩

/-- Putting a byte keeps the canonical form. -/
theorem romPut_wf {m : List Host.Cell} {a : Nat} {b : Byte} (h : Memory.wf m = true) : Memory.wf (romPut m a b) = true := by
  unfold romPut
  split
  · split
    · exact romWFFrom_erase h
    · exact romWFFrom_insert h (Nat.zero_le a) ‹_› ‹_›
  · exact h

/-- Putting bytes keeps the canonical form. -/
theorem romPutBytes_wf {m : List Host.Cell} {a : Nat} {bs : List Byte} (h : Memory.wf m = true) :
    Memory.wf (romPutBytes m a bs) = true := by
  induction bs generalizing m a with
  | nil => exact h
  | cons b bs ih => exact ih (romPut_wf h)

/-- Every ROM made from a table is canonical. -/
theorem romOfTable_wf (t : Table) : Memory.wf (romOfTable t) = true := romPutBytes_wf rfl

/-- The ROM of the state after reset is canonical: nothing is listed. -/
theorem reset_rom_wf (p : Params) : Memory.wf (State.resetWith p).rom = true := rfl

/-- An address below every listed one is not listed. -/
theorem romLookup_below {m : List Host.Cell} {lo a : Nat} (h : romWFFrom lo m = true) (ha : a < lo) :
    romLookup m a = none := by
  induction m generalizing lo with
  | nil => rfl
  | cons c m ih =>
    simp only [romWFFrom, Bool.and_eq_true, decide_eq_true_eq] at h
    rw [romLookup, if_neg (by omega), ih h.2 (by omega)]

theorem romLookup_erase_same {m : List Host.Cell} {lo a : Nat} (h : romWFFrom lo m = true) :
    romLookup (romErase m a) a = none := by
  induction m generalizing lo with
  | nil => rfl
  | cons c m ih =>
    simp only [romWFFrom, Bool.and_eq_true, decide_eq_true_eq] at h
    unfold romErase
    split
    · exact romLookup_below h.2 (by omega)
    · rename_i hc
      rw [romLookup, if_neg hc, ih h.2]

theorem romLookup_erase_other {m : List Host.Cell} {a a' : Nat} (hne : a' ≠ a) :
    romLookup (romErase m a) a' = romLookup m a' := by
  induction m with
  | nil => rfl
  | cons c m ih =>
    unfold romErase
    split
    · rename_i hc
      rw [romLookup, if_neg (by omega)]
    · simp only [romLookup, ih]

theorem romLookup_insert_same {m : List Host.Cell} {a : Nat} {b : Byte} : romLookup (romInsert m a b) a = some b := by
  induction m with
  | nil => simp [romInsert, romLookup]
  | cons c m ih =>
    unfold romInsert
    split
    · simp [romLookup]
    · split
      · simp [romLookup]
      · rename_i hc
        rw [romLookup, if_neg hc, ih]

theorem romLookup_insert_other {m : List Host.Cell} {a a' : Nat} {b : Byte} (hne : a' ≠ a) :
    romLookup (romInsert m a b) a' = romLookup m a' := by
  induction m with
  | nil => simp [romInsert, romLookup, Ne.symm hne]
  | cons c m ih =>
    unfold romInsert
    split
    · rw [romLookup, if_neg (Ne.symm hne)]
    · split
      · rename_i hc
        rw [romLookup, if_neg (Ne.symm hne), romLookup, if_neg (by omega)]
      · simp only [romLookup, ih]

/-- A read after a put gives the byte put. -/
theorem romByte_put_same {m : List Host.Cell} {a : Nat} {b : Byte} (h : Memory.wf m = true) (ha : a < Config.romSize) :
    romByte (romPut m a b) a = .ok b := by
  unfold romByte romPut
  rw [if_pos ha, if_pos ha]
  split
  · rename_i hb
    rw [romLookup_erase_same h, hb]
    rfl
  · rw [romLookup_insert_same]
    rfl

/-- A put leaves every other address as it was. -/
theorem romByte_put_other {m : List Host.Cell} {a a' : Nat} {b : Byte} (hne : a' ≠ a) :
    romByte (romPut m a b) a' = romByte m a' := by
  unfold romByte romPut
  split
  · split
    · split
      · rw [romLookup_erase_other hne]
      · rw [romLookup_insert_other hne]
    · rfl
  · rfl

/-- Every byte of a ROM after bytes are put into it: inside the range the byte put there, outside it as before. -/
theorem romByte_putBytes {m : List Host.Cell} {a : Nat} {bs : List Byte} (h : Memory.wf m = true)
    (ha : a + bs.length ≤ Config.romSize) (k : Nat) :
    romByte (romPutBytes m a bs) k =
      if a ≤ k ∧ k < a + bs.length then .ok (bs.getD (k - a) 0#8) else romByte m k := by
  induction bs generalizing m a with
  | nil =>
    rw [if_neg (by simp only [List.length_nil]; omega)]
    rfl
  | cons b bs ih =>
    simp only [List.length_cons] at ha ⊢
    rw [romPutBytes, ih (romPut_wf h) (by omega)]
    by_cases hk : k = a
    · subst hk
      rw [if_neg (by omega), if_pos (by omega), romByte_put_same h (by omega), Nat.sub_self]
      rfl
    · rw [romByte_put_other hk]
      by_cases hin : a + 1 ≤ k ∧ k < a + 1 + bs.length
      · rw [if_pos hin, if_pos (by omega)]
        obtain ⟨n, rfl⟩ := Nat.exists_eq_add_of_le hin.1
        rw [Nat.add_sub_cancel_left, show a + 1 + n - a = n + 1 by omega]
        rfl
      · rw [if_neg hin, if_neg (by omega)]

end Sys2Proof.Machine
end

