-- ==== Sys2Proof/Laws/State.lean ====
section
/-! SUPPORT. One lemma per field per update of the state: no later proof unfolds an update. -/

namespace Sys2Proof.Machine

/-! ### `traced` -/

@[simp] theorem traced_buson (s : State) (e : TraceEntry) : (s.traced e).buson = s.buson :=
  rfl
@[simp] theorem traced_bitrate (s : State) (e : TraceEntry) : (s.traced e).bitrate = s.bitrate :=
  rfl
@[simp] theorem traced_cfgd (s : State) (e : TraceEntry) : (s.traced e).cfgd = s.cfgd :=
  rfl
@[simp] theorem traced_filters (s : State) (e : TraceEntry) : (s.traced e).filters = s.filters :=
  rfl
@[simp] theorem traced_rxb (s : State) (e : TraceEntry) : (s.traced e).rxb = s.rxb :=
  rfl
@[simp] theorem traced_seq (s : State) (e : TraceEntry) : (s.traced e).seq = s.seq :=
  rfl
@[simp] theorem traced_hf (s : State) (e : TraceEntry) : (s.traced e).hf = s.hf :=
  rfl
@[simp] theorem traced_hfv (s : State) (e : TraceEntry) : (s.traced e).hfv = s.hfv :=
  rfl
@[simp] theorem traced_txf (s : State) (e : TraceEntry) : (s.traced e).txf = s.txf :=
  rfl
@[simp] theorem traced_diag (s : State) (e : TraceEntry) : (s.traced e).diag = s.diag :=
  rfl
@[simp] theorem traced_trace (s : State) (e : TraceEntry) : (s.traced e).trace = (s.trace ++ [e]) :=
  rfl
@[simp] theorem traced_txout (s : State) (e : TraceEntry) : (s.traced e).txout = s.txout :=
  rfl
@[simp] theorem traced_diaglog (s : State) (e : TraceEntry) : (s.traced e).diaglog = s.diaglog :=
  rfl
@[simp] theorem traced_params (s : State) (e : TraceEntry) : (s.traced e).params = s.params :=
  rfl
@[simp] theorem traced_rom (s : State) (e : TraceEntry) : (s.traced e).rom = s.rom :=
  rfl
@[simp] theorem traced_script (s : State) (e : TraceEntry) : (s.traced e).script = s.script :=
  rfl
@[simp] theorem traced_freeIx (s : State) (e : TraceEntry) : (s.traced e).freeIx = s.freeIx :=
  rfl

/-! ### `sent` -/

@[simp] theorem sent_buson (s : State) (fr : Frame) : (s.sent fr).buson = s.buson :=
  rfl
@[simp] theorem sent_bitrate (s : State) (fr : Frame) : (s.sent fr).bitrate = s.bitrate :=
  rfl
@[simp] theorem sent_cfgd (s : State) (fr : Frame) : (s.sent fr).cfgd = s.cfgd :=
  rfl
@[simp] theorem sent_filters (s : State) (fr : Frame) : (s.sent fr).filters = s.filters :=
  rfl
@[simp] theorem sent_rxb (s : State) (fr : Frame) : (s.sent fr).rxb = s.rxb :=
  rfl
@[simp] theorem sent_seq (s : State) (fr : Frame) : (s.sent fr).seq = s.seq :=
  rfl
@[simp] theorem sent_hf (s : State) (fr : Frame) : (s.sent fr).hf = s.hf :=
  rfl
@[simp] theorem sent_hfv (s : State) (fr : Frame) : (s.sent fr).hfv = s.hfv :=
  rfl
@[simp] theorem sent_txf (s : State) (fr : Frame) : (s.sent fr).txf = s.txf :=
  rfl
@[simp] theorem sent_diag (s : State) (fr : Frame) : (s.sent fr).diag = s.diag :=
  rfl
@[simp] theorem sent_trace (s : State) (fr : Frame) : (s.sent fr).trace = s.trace :=
  rfl
@[simp] theorem sent_txout (s : State) (fr : Frame) : (s.sent fr).txout = (s.txout ++ [.frame fr]) :=
  rfl
@[simp] theorem sent_diaglog (s : State) (fr : Frame) : (s.sent fr).diaglog = s.diaglog :=
  rfl
@[simp] theorem sent_params (s : State) (fr : Frame) : (s.sent fr).params = s.params :=
  rfl
@[simp] theorem sent_rom (s : State) (fr : Frame) : (s.sent fr).rom = s.rom :=
  rfl
@[simp] theorem sent_script (s : State) (fr : Frame) : (s.sent fr).script = s.script :=
  rfl
@[simp] theorem sent_freeIx (s : State) (fr : Frame) : (s.sent fr).freeIx = s.freeIx :=
  rfl

/-! ### `cfgReact` -/

@[simp] theorem cfgReact_buson (s : State) : (cfgReact s).buson = s.buson :=
  by unfold cfgReact; cases s.params.cfgFault <;> rfl
@[simp] theorem cfgReact_bitrate (s : State) : (cfgReact s).bitrate = s.bitrate :=
  by unfold cfgReact; cases s.params.cfgFault <;> rfl
@[simp] theorem cfgReact_cfgd (s : State) : (cfgReact s).cfgd = s.cfgd :=
  by unfold cfgReact; cases s.params.cfgFault <;> rfl
@[simp] theorem cfgReact_filters (s : State) : (cfgReact s).filters = s.filters :=
  by unfold cfgReact; cases s.params.cfgFault <;> rfl
@[simp] theorem cfgReact_rxb (s : State) : (cfgReact s).rxb = s.rxb :=
  by unfold cfgReact; cases s.params.cfgFault <;> rfl
@[simp] theorem cfgReact_seq (s : State) : (cfgReact s).seq = (match s.params.cfgFault with | .retry => s.seq | .halt => .halted) :=
  by unfold cfgReact; cases s.params.cfgFault <;> rfl
@[simp] theorem cfgReact_hf (s : State) : (cfgReact s).hf = s.hf :=
  by unfold cfgReact; cases s.params.cfgFault <;> rfl
@[simp] theorem cfgReact_hfv (s : State) : (cfgReact s).hfv = s.hfv :=
  by unfold cfgReact; cases s.params.cfgFault <;> rfl
@[simp] theorem cfgReact_txf (s : State) : (cfgReact s).txf = s.txf :=
  by unfold cfgReact; cases s.params.cfgFault <;> rfl
@[simp] theorem cfgReact_diag (s : State) : (cfgReact s).diag = s.diag :=
  by unfold cfgReact; cases s.params.cfgFault <;> rfl
@[simp] theorem cfgReact_trace (s : State) : (cfgReact s).trace = s.trace :=
  by unfold cfgReact; cases s.params.cfgFault <;> rfl
@[simp] theorem cfgReact_txout (s : State) : (cfgReact s).txout = s.txout :=
  by unfold cfgReact; cases s.params.cfgFault <;> rfl
@[simp] theorem cfgReact_diaglog (s : State) : (cfgReact s).diaglog = s.diaglog :=
  by unfold cfgReact; cases s.params.cfgFault <;> rfl
@[simp] theorem cfgReact_params (s : State) : (cfgReact s).params = s.params :=
  by unfold cfgReact; cases s.params.cfgFault <;> rfl
@[simp] theorem cfgReact_rom (s : State) : (cfgReact s).rom = s.rom :=
  by unfold cfgReact; cases s.params.cfgFault <;> rfl
@[simp] theorem cfgReact_script (s : State) : (cfgReact s).script = s.script :=
  by unfold cfgReact; cases s.params.cfgFault <;> rfl
@[simp] theorem cfgReact_freeIx (s : State) : (cfgReact s).freeIx = s.freeIx :=
  by unfold cfgReact; cases s.params.cfgFault <;> rfl

/-! ### `rxReact` -/

@[simp] theorem rxReact_buson (s : State) : (rxReact s).buson = s.buson :=
  rfl
@[simp] theorem rxReact_bitrate (s : State) : (rxReact s).bitrate = s.bitrate :=
  rfl
@[simp] theorem rxReact_cfgd (s : State) : (rxReact s).cfgd = s.cfgd :=
  rfl
@[simp] theorem rxReact_filters (s : State) : (rxReact s).filters = s.filters :=
  rfl
@[simp] theorem rxReact_rxb (s : State) : (rxReact s).rxb = s.rxb :=
  rfl
@[simp] theorem rxReact_seq (s : State) : (rxReact s).seq = (.relayPoll) :=
  rfl
@[simp] theorem rxReact_hf (s : State) : (rxReact s).hf = s.hf :=
  rfl
@[simp] theorem rxReact_hfv (s : State) : (rxReact s).hfv = s.hfv :=
  rfl
@[simp] theorem rxReact_txf (s : State) : (rxReact s).txf = s.txf :=
  rfl
@[simp] theorem rxReact_diag (s : State) : (rxReact s).diag = s.diag :=
  rfl
@[simp] theorem rxReact_trace (s : State) : (rxReact s).trace = s.trace :=
  rfl
@[simp] theorem rxReact_txout (s : State) : (rxReact s).txout = s.txout :=
  rfl
@[simp] theorem rxReact_diaglog (s : State) : (rxReact s).diaglog = s.diaglog :=
  rfl
@[simp] theorem rxReact_params (s : State) : (rxReact s).params = s.params :=
  rfl
@[simp] theorem rxReact_rom (s : State) : (rxReact s).rom = s.rom :=
  rfl
@[simp] theorem rxReact_script (s : State) : (rxReact s).script = s.script :=
  rfl
@[simp] theorem rxReact_freeIx (s : State) : (rxReact s).freeIx = s.freeIx :=
  rfl

/-! ### `txReact` -/

@[simp] theorem txReact_buson (r : Status) (s : State) : (txReact r s).buson = s.buson :=
  by cases r <;> rfl
@[simp] theorem txReact_bitrate (r : Status) (s : State) : (txReact r s).bitrate = s.bitrate :=
  by cases r <;> rfl
@[simp] theorem txReact_cfgd (r : Status) (s : State) : (txReact r s).cfgd = s.cfgd :=
  by cases r <;> rfl
@[simp] theorem txReact_filters (r : Status) (s : State) : (txReact r s).filters = s.filters :=
  by cases r <;> rfl
@[simp] theorem txReact_rxb (r : Status) (s : State) : (txReact r s).rxb = s.rxb :=
  by cases r <;> rfl
@[simp] theorem txReact_seq (r : Status) (s : State) : (txReact r s).seq = s.seq :=
  by cases r <;> rfl
@[simp] theorem txReact_hf (r : Status) (s : State) : (txReact r s).hf = s.hf :=
  by cases r <;> rfl
@[simp] theorem txReact_hfv (r : Status) (s : State) : (txReact r s).hfv = s.hfv :=
  by cases r <;> rfl
@[simp] theorem txReact_txf (r : Status) (s : State) : (txReact r s).txf = (match r with | .ok => s.txf | .fault _ => true) :=
  by cases r <;> rfl
@[simp] theorem txReact_diag (r : Status) (s : State) : (txReact r s).diag = s.diag :=
  by cases r <;> rfl
@[simp] theorem txReact_trace (r : Status) (s : State) : (txReact r s).trace = s.trace :=
  by cases r <;> rfl
@[simp] theorem txReact_txout (r : Status) (s : State) : (txReact r s).txout = s.txout :=
  by cases r <;> rfl
@[simp] theorem txReact_diaglog (r : Status) (s : State) : (txReact r s).diaglog = s.diaglog :=
  by cases r <;> rfl
@[simp] theorem txReact_params (r : Status) (s : State) : (txReact r s).params = s.params :=
  by cases r <;> rfl
@[simp] theorem txReact_rom (r : Status) (s : State) : (txReact r s).rom = s.rom :=
  by cases r <;> rfl
@[simp] theorem txReact_script (r : Status) (s : State) : (txReact r s).script = s.script :=
  by cases r <;> rfl
@[simp] theorem txReact_freeIx (r : Status) (s : State) : (txReact r s).freeIx = s.freeIx :=
  by cases r <;> rfl

/-! ### `releaseHeld` -/

@[simp] theorem releaseHeld_buson (s : State) : (releaseHeld s).buson = s.buson :=
  rfl
@[simp] theorem releaseHeld_bitrate (s : State) : (releaseHeld s).bitrate = s.bitrate :=
  rfl
@[simp] theorem releaseHeld_cfgd (s : State) : (releaseHeld s).cfgd = s.cfgd :=
  rfl
@[simp] theorem releaseHeld_filters (s : State) : (releaseHeld s).filters = s.filters :=
  rfl
@[simp] theorem releaseHeld_rxb (s : State) : (releaseHeld s).rxb = s.rxb :=
  rfl
@[simp] theorem releaseHeld_seq (s : State) : (releaseHeld s).seq = s.seq :=
  rfl
@[simp] theorem releaseHeld_hf (s : State) : (releaseHeld s).hf = (Config.freeHeld s.freeIx) :=
  rfl
@[simp] theorem releaseHeld_hfv (s : State) : (releaseHeld s).hfv = (false) :=
  rfl
@[simp] theorem releaseHeld_txf (s : State) : (releaseHeld s).txf = s.txf :=
  rfl
@[simp] theorem releaseHeld_diag (s : State) : (releaseHeld s).diag = s.diag :=
  rfl
@[simp] theorem releaseHeld_trace (s : State) : (releaseHeld s).trace = s.trace :=
  rfl
@[simp] theorem releaseHeld_txout (s : State) : (releaseHeld s).txout = s.txout :=
  rfl
@[simp] theorem releaseHeld_diaglog (s : State) : (releaseHeld s).diaglog = s.diaglog :=
  rfl
@[simp] theorem releaseHeld_params (s : State) : (releaseHeld s).params = s.params :=
  rfl
@[simp] theorem releaseHeld_rom (s : State) : (releaseHeld s).rom = s.rom :=
  rfl
@[simp] theorem releaseHeld_script (s : State) : (releaseHeld s).script = s.script :=
  rfl
@[simp] theorem releaseHeld_freeIx (s : State) : (releaseHeld s).freeIx = s.freeIx :=
  rfl

/-! ### `writeDiag` -/

@[simp] theorem writeDiag_buson (b : Bool) (s : State) : (writeDiag b s).buson = s.buson :=
  rfl
@[simp] theorem writeDiag_bitrate (b : Bool) (s : State) : (writeDiag b s).bitrate = s.bitrate :=
  rfl
@[simp] theorem writeDiag_cfgd (b : Bool) (s : State) : (writeDiag b s).cfgd = s.cfgd :=
  rfl
@[simp] theorem writeDiag_filters (b : Bool) (s : State) : (writeDiag b s).filters = s.filters :=
  rfl
@[simp] theorem writeDiag_rxb (b : Bool) (s : State) : (writeDiag b s).rxb = s.rxb :=
  rfl
@[simp] theorem writeDiag_seq (b : Bool) (s : State) : (writeDiag b s).seq = s.seq :=
  rfl
@[simp] theorem writeDiag_hf (b : Bool) (s : State) : (writeDiag b s).hf = s.hf :=
  rfl
@[simp] theorem writeDiag_hfv (b : Bool) (s : State) : (writeDiag b s).hfv = s.hfv :=
  rfl
@[simp] theorem writeDiag_txf (b : Bool) (s : State) : (writeDiag b s).txf = s.txf :=
  rfl
@[simp] theorem writeDiag_diag (b : Bool) (s : State) : (writeDiag b s).diag = (b) :=
  rfl
@[simp] theorem writeDiag_trace (b : Bool) (s : State) : (writeDiag b s).trace = s.trace :=
  rfl
@[simp] theorem writeDiag_txout (b : Bool) (s : State) : (writeDiag b s).txout = s.txout :=
  rfl
@[simp] theorem writeDiag_diaglog (b : Bool) (s : State) : (writeDiag b s).diaglog = (s.diaglog ++ [.level b]) :=
  rfl
@[simp] theorem writeDiag_params (b : Bool) (s : State) : (writeDiag b s).params = s.params :=
  rfl
@[simp] theorem writeDiag_rom (b : Bool) (s : State) : (writeDiag b s).rom = s.rom :=
  rfl
@[simp] theorem writeDiag_script (b : Bool) (s : State) : (writeDiag b s).script = s.script :=
  rfl
@[simp] theorem writeDiag_freeIx (b : Bool) (s : State) : (writeDiag b s).freeIx = s.freeIx :=
  rfl

/-! ### `toggleDiag` -/

@[simp] theorem toggleDiag_buson (s : State) : (toggleDiag s).buson = s.buson :=
  rfl
@[simp] theorem toggleDiag_bitrate (s : State) : (toggleDiag s).bitrate = s.bitrate :=
  rfl
@[simp] theorem toggleDiag_cfgd (s : State) : (toggleDiag s).cfgd = s.cfgd :=
  rfl
@[simp] theorem toggleDiag_filters (s : State) : (toggleDiag s).filters = s.filters :=
  rfl
@[simp] theorem toggleDiag_rxb (s : State) : (toggleDiag s).rxb = s.rxb :=
  rfl
@[simp] theorem toggleDiag_seq (s : State) : (toggleDiag s).seq = s.seq :=
  rfl
@[simp] theorem toggleDiag_hf (s : State) : (toggleDiag s).hf = s.hf :=
  rfl
@[simp] theorem toggleDiag_hfv (s : State) : (toggleDiag s).hfv = s.hfv :=
  rfl
@[simp] theorem toggleDiag_txf (s : State) : (toggleDiag s).txf = s.txf :=
  rfl
@[simp] theorem toggleDiag_diag (s : State) : (toggleDiag s).diag = (!s.diag) :=
  rfl
@[simp] theorem toggleDiag_trace (s : State) : (toggleDiag s).trace = s.trace :=
  rfl
@[simp] theorem toggleDiag_txout (s : State) : (toggleDiag s).txout = s.txout :=
  rfl
@[simp] theorem toggleDiag_diaglog (s : State) : (toggleDiag s).diaglog = (s.diaglog ++ [.level (!s.diag)]) :=
  rfl
@[simp] theorem toggleDiag_params (s : State) : (toggleDiag s).params = s.params :=
  rfl
@[simp] theorem toggleDiag_rom (s : State) : (toggleDiag s).rom = s.rom :=
  rfl
@[simp] theorem toggleDiag_script (s : State) : (toggleDiag s).script = s.script :=
  rfl
@[simp] theorem toggleDiag_freeIx (s : State) : (toggleDiag s).freeIx = s.freeIx :=
  rfl

/-! ### `setBusOn` -/

@[simp] theorem setBusOn_buson (n : Word32) (s : State) : (setBusOn n s).buson = (true) :=
  rfl
@[simp] theorem setBusOn_bitrate (n : Word32) (s : State) : (setBusOn n s).bitrate = (n) :=
  rfl
@[simp] theorem setBusOn_cfgd (n : Word32) (s : State) : (setBusOn n s).cfgd = s.cfgd :=
  rfl
@[simp] theorem setBusOn_filters (n : Word32) (s : State) : (setBusOn n s).filters = s.filters :=
  rfl
@[simp] theorem setBusOn_rxb (n : Word32) (s : State) : (setBusOn n s).rxb = s.rxb :=
  rfl
@[simp] theorem setBusOn_seq (n : Word32) (s : State) : (setBusOn n s).seq = s.seq :=
  rfl
@[simp] theorem setBusOn_hf (n : Word32) (s : State) : (setBusOn n s).hf = s.hf :=
  rfl
@[simp] theorem setBusOn_hfv (n : Word32) (s : State) : (setBusOn n s).hfv = s.hfv :=
  rfl
@[simp] theorem setBusOn_txf (n : Word32) (s : State) : (setBusOn n s).txf = s.txf :=
  rfl
@[simp] theorem setBusOn_diag (n : Word32) (s : State) : (setBusOn n s).diag = s.diag :=
  rfl
@[simp] theorem setBusOn_trace (n : Word32) (s : State) : (setBusOn n s).trace = s.trace :=
  rfl
@[simp] theorem setBusOn_txout (n : Word32) (s : State) : (setBusOn n s).txout = s.txout :=
  rfl
@[simp] theorem setBusOn_diaglog (n : Word32) (s : State) : (setBusOn n s).diaglog = s.diaglog :=
  rfl
@[simp] theorem setBusOn_params (n : Word32) (s : State) : (setBusOn n s).params = s.params :=
  rfl
@[simp] theorem setBusOn_rom (n : Word32) (s : State) : (setBusOn n s).rom = s.rom :=
  rfl
@[simp] theorem setBusOn_script (n : Word32) (s : State) : (setBusOn n s).script = s.script :=
  rfl
@[simp] theorem setBusOn_freeIx (n : Word32) (s : State) : (setBusOn n s).freeIx = s.freeIx :=
  rfl

/-! ### `setConfigured` -/

@[simp] theorem setConfigured_buson (t : Table) (s : State) : (setConfigured t s).buson = s.buson :=
  rfl
@[simp] theorem setConfigured_bitrate (t : Table) (s : State) : (setConfigured t s).bitrate = s.bitrate :=
  rfl
@[simp] theorem setConfigured_cfgd (t : Table) (s : State) : (setConfigured t s).cfgd = (true) :=
  rfl
@[simp] theorem setConfigured_filters (t : Table) (s : State) : (setConfigured t s).filters = (t) :=
  rfl
@[simp] theorem setConfigured_rxb (t : Table) (s : State) : (setConfigured t s).rxb = s.rxb :=
  rfl
@[simp] theorem setConfigured_seq (t : Table) (s : State) : (setConfigured t s).seq = s.seq :=
  rfl
@[simp] theorem setConfigured_hf (t : Table) (s : State) : (setConfigured t s).hf = s.hf :=
  rfl
@[simp] theorem setConfigured_hfv (t : Table) (s : State) : (setConfigured t s).hfv = s.hfv :=
  rfl
@[simp] theorem setConfigured_txf (t : Table) (s : State) : (setConfigured t s).txf = s.txf :=
  rfl
@[simp] theorem setConfigured_diag (t : Table) (s : State) : (setConfigured t s).diag = s.diag :=
  rfl
@[simp] theorem setConfigured_trace (t : Table) (s : State) : (setConfigured t s).trace = s.trace :=
  rfl
@[simp] theorem setConfigured_txout (t : Table) (s : State) : (setConfigured t s).txout = s.txout :=
  rfl
@[simp] theorem setConfigured_diaglog (t : Table) (s : State) : (setConfigured t s).diaglog = s.diaglog :=
  rfl
@[simp] theorem setConfigured_params (t : Table) (s : State) : (setConfigured t s).params = s.params :=
  rfl
@[simp] theorem setConfigured_rom (t : Table) (s : State) : (setConfigured t s).rom = s.rom :=
  rfl
@[simp] theorem setConfigured_script (t : Table) (s : State) : (setConfigured t s).script = s.script :=
  rfl
@[simp] theorem setConfigured_freeIx (t : Table) (s : State) : (setConfigured t s).freeIx = s.freeIx :=
  rfl

/-! ### `holdFrame` -/

@[simp] theorem holdFrame_buson (fr : Frame) (s : State) : (holdFrame fr s).buson = s.buson :=
  rfl
@[simp] theorem holdFrame_bitrate (fr : Frame) (s : State) : (holdFrame fr s).bitrate = s.bitrate :=
  rfl
@[simp] theorem holdFrame_cfgd (fr : Frame) (s : State) : (holdFrame fr s).cfgd = s.cfgd :=
  rfl
@[simp] theorem holdFrame_filters (fr : Frame) (s : State) : (holdFrame fr s).filters = s.filters :=
  rfl
@[simp] theorem holdFrame_rxb (fr : Frame) (s : State) : (holdFrame fr s).rxb = s.rxb :=
  rfl
@[simp] theorem holdFrame_seq (fr : Frame) (s : State) : (holdFrame fr s).seq = s.seq :=
  rfl
@[simp] theorem holdFrame_hf (fr : Frame) (s : State) : (holdFrame fr s).hf = (loadHeld fr) :=
  rfl
@[simp] theorem holdFrame_hfv (fr : Frame) (s : State) : (holdFrame fr s).hfv = (true) :=
  rfl
@[simp] theorem holdFrame_txf (fr : Frame) (s : State) : (holdFrame fr s).txf = s.txf :=
  rfl
@[simp] theorem holdFrame_diag (fr : Frame) (s : State) : (holdFrame fr s).diag = s.diag :=
  rfl
@[simp] theorem holdFrame_trace (fr : Frame) (s : State) : (holdFrame fr s).trace = s.trace :=
  rfl
@[simp] theorem holdFrame_txout (fr : Frame) (s : State) : (holdFrame fr s).txout = s.txout :=
  rfl
@[simp] theorem holdFrame_diaglog (fr : Frame) (s : State) : (holdFrame fr s).diaglog = s.diaglog :=
  rfl
@[simp] theorem holdFrame_params (fr : Frame) (s : State) : (holdFrame fr s).params = s.params :=
  rfl
@[simp] theorem holdFrame_rom (fr : Frame) (s : State) : (holdFrame fr s).rom = s.rom :=
  rfl
@[simp] theorem holdFrame_script (fr : Frame) (s : State) : (holdFrame fr s).script = s.script :=
  rfl
@[simp] theorem holdFrame_freeIx (fr : Frame) (s : State) : (holdFrame fr s).freeIx = s.freeIx :=
  rfl

/-! ### `advance` -/

@[simp] theorem advance_buson (s : State) : (advance s).buson = s.buson :=
  rfl
@[simp] theorem advance_bitrate (s : State) : (advance s).bitrate = s.bitrate :=
  rfl
@[simp] theorem advance_cfgd (s : State) : (advance s).cfgd = s.cfgd :=
  rfl
@[simp] theorem advance_filters (s : State) : (advance s).filters = s.filters :=
  rfl
@[simp] theorem advance_rxb (s : State) : (advance s).rxb = s.rxb :=
  rfl
@[simp] theorem advance_seq (s : State) : (advance s).seq = s.seq :=
  rfl
@[simp] theorem advance_hf (s : State) : (advance s).hf = s.hf :=
  rfl
@[simp] theorem advance_hfv (s : State) : (advance s).hfv = s.hfv :=
  rfl
@[simp] theorem advance_txf (s : State) : (advance s).txf = s.txf :=
  rfl
@[simp] theorem advance_diag (s : State) : (advance s).diag = s.diag :=
  rfl
@[simp] theorem advance_trace (s : State) : (advance s).trace = s.trace :=
  rfl
@[simp] theorem advance_txout (s : State) : (advance s).txout = s.txout :=
  rfl
@[simp] theorem advance_diaglog (s : State) : (advance s).diaglog = s.diaglog :=
  rfl
@[simp] theorem advance_params (s : State) : (advance s).params = s.params :=
  rfl
@[simp] theorem advance_rom (s : State) : (advance s).rom = s.rom :=
  rfl
@[simp] theorem advance_script (s : State) : (advance s).script = (s.script.tail) :=
  rfl
@[simp] theorem advance_freeIx (s : State) : (advance s).freeIx = (s.freeIx + 1) :=
  rfl

/-! ### `resetState`: the fields with a specified value, and what survives (70_reset_and_hazards R200) -/

@[simp] theorem resetState_buson (s : State) : (resetState s).buson = false :=
  rfl
@[simp] theorem resetState_cfgd (s : State) : (resetState s).cfgd = false :=
  rfl
@[simp] theorem resetState_rxb (s : State) : (resetState s).rxb = [] :=
  rfl
@[simp] theorem resetState_seq (s : State) : (resetState s).seq = .booting :=
  rfl
@[simp] theorem resetState_hfv (s : State) : (resetState s).hfv = false :=
  rfl
@[simp] theorem resetState_txf (s : State) : (resetState s).txf = false :=
  rfl
@[simp] theorem resetState_diag (s : State) : (resetState s).diag = false :=
  rfl
@[simp] theorem resetState_trace (s : State) : (resetState s).trace = s.trace ++ [.reset] :=
  rfl
@[simp] theorem resetState_txout (s : State) : (resetState s).txout = s.txout ++ [.reset] :=
  rfl
@[simp] theorem resetState_diaglog (s : State) : (resetState s).diaglog = s.diaglog ++ [.reset] :=
  rfl
@[simp] theorem resetState_params (s : State) : (resetState s).params = s.params :=
  rfl
@[simp] theorem resetState_rom (s : State) : (resetState s).rom = s.rom :=
  rfl
@[simp] theorem resetState_script (s : State) : (resetState s).script = s.script :=
  rfl
@[simp] theorem resetState_freeIx (s : State) : (resetState s).freeIx = s.freeIx :=
  rfl

/-! ### The schedule is read, never written, inside a step -/

@[simp] theorem traced_draws (s : State) (e : TraceEntry) : State.draws (s.traced e) = s.draws :=
  rfl
@[simp] theorem sent_draws (s : State) (fr : Frame) : State.draws (s.sent fr) = s.draws :=
  rfl
@[simp] theorem cfgReact_draws (s : State) : State.draws (cfgReact s) = s.draws :=
  by unfold cfgReact; cases s.params.cfgFault <;> rfl
@[simp] theorem rxReact_draws (s : State) : State.draws (rxReact s) = s.draws :=
  rfl
@[simp] theorem txReact_draws (r : Status) (s : State) : State.draws (txReact r s) = s.draws :=
  by cases r <;> rfl
@[simp] theorem releaseHeld_draws (s : State) : State.draws (releaseHeld s) = s.draws :=
  rfl
@[simp] theorem writeDiag_draws (b : Bool) (s : State) : State.draws (writeDiag b s) = s.draws :=
  rfl
@[simp] theorem toggleDiag_draws (s : State) : State.draws (toggleDiag s) = s.draws :=
  rfl
@[simp] theorem setBusOn_draws (n : Word32) (s : State) : State.draws (setBusOn n s) = s.draws :=
  rfl
@[simp] theorem setConfigured_draws (t : Table) (s : State) : State.draws (setConfigured t s) = s.draws :=
  rfl
@[simp] theorem holdFrame_draws (fr : Frame) (s : State) : State.draws (holdFrame fr s) = s.draws :=
  rfl

end Sys2Proof.Machine
end

