-- ==== Sys2Proof/Laws/Ops.lean ====
section
/-! SUPPORT. For each shared operation one lemma that says once everything it can answer; proofs cite these and do not
unfold the operation. -/

namespace Sys2Proof.Machine

theorem bindResult_eq_next {α β : Type} {r : Result α} {f : α → Result β} {b : β} :
    bindResult r f = .next b ↔ ∃ a, r = .next a ∧ f a = .next b := by
  cases r <;> simp [bindResult]

@[simp] theorem bindResult_next {α β : Type} (a : α) (f : α → Result β) : bindResult (.next a) f = f a := rfl

@[simp] theorem bindResult_fault {α β : Type} (e : Fault) (f : α → Result β) : bindResult (.fault e) f = .fault e := rfl

@[simp] theorem bindResult_refused {α β : Type} (e : Refusal) (f : α → Result β) :
    bindResult (.refused e) f = .refused e := rfl

theorem dropResponse_eq_next {α : Type} {r : Result (α × State)} {t : State} :
    dropResponse r = .next t ↔ ∃ a, r = .next (a, t) := by
  rw [dropResponse, bindResult_eq_next]
  constructor
  · rintro ⟨⟨a, u⟩, h, hu⟩
    cases hu
    exact ⟨a, h⟩
  · rintro ⟨a, h⟩
    exact ⟨(a, t), h, rfl⟩

/-- The ROM spells a table exactly when its eight entries decode to it (42_relay_sequencer R142). -/
theorem readTable_eq_next {m : List Host.Cell} {t : Table} :
    readTable m = .next t ↔ tableFrom (romEntry m) = .ok t := by
  unfold readTable
  cases h : tableFrom (romEntry m) with
  | ok u => simp
  | error e => cases e <;> simp

/-- All that `INIT_BUS` can answer (41_interface_ops R121). -/
theorem callInitBus_eq_next {n : Word32} {s : State} {a : Status × State} :
    callInitBus n s = .next a ↔
      (s.draws.oInit = .ok ∧ a = (.ok, (setBusOn n s).traced (.initBus n .ok))) ∨
      (s.draws.oInit = .fault ∧ a = (.fault .fcInit, s.traced (.initBus n (.fault .fcInit)))) := by
  unfold callInitBus
  cases s.draws.oInit <;> simp [eq_comm]

/-- All that `CONFIGURE_FILTERS` can answer (40_acceptance_filter R106). -/
theorem callConfigureFilters_eq_next {t : Table} {s : State} {a : Status × State} :
    callConfigureFilters t s = .next a ↔
      s.buson = true ∧
        ((tableWF t = false ∧ a = (.fault .fcCfgTable, s.traced (.configureFilters t (.fault .fcCfgTable)))) ∨
         (tableWF t = true ∧ s.draws.oCfg = .fault ∧
            a = (.fault .fcCfgMode, s.traced (.configureFilters t (.fault .fcCfgMode)))) ∨
         (tableWF t = true ∧ s.draws.oCfg = .ok ∧ a = (.ok, (setConfigured t s).traced (.configureFilters t .ok)))) := by
  unfold callConfigureFilters
  cases s.buson <;> cases tableWF t <;> cases s.draws.oCfg <;> simp [eq_comm]

/-- All that `FRAME_AVAILABLE` can answer (41_interface_ops R122). -/
theorem callFrameAvailable_eq_next {s : State} {a : Bool × State} :
    callFrameAvailable s = .next a ↔
      (s.rxb = [] ∧ a = (false, s.traced (.frameAvailable false))) ∨
      (s.rxb ≠ [] ∧ a = (true, s.traced (.frameAvailable true))) := by
  unfold callFrameAvailable
  cases s.rxb <;> simp [eq_comm]

/-- All that `RECEIVE_FRAME` can answer (41_interface_ops R123). -/
theorem callReceiveFrame_eq_next {s : State} {a : FetchResponse × State} :
    callReceiveFrame s = .next a ↔
      ∃ fr rest, s.rxb = fr :: rest ∧
        ((s.draws.oRx = .ok ∧ a = (.ok fr, State.traced { s with rxb := rest } (.receiveFrame (.ok fr)))) ∨
         (s.draws.oRx = .fault ∧ s.draws.oRxKeep = .keep ∧
            a = (.fault .fcRx, State.traced { s with rxb := fr :: rest } (.receiveFrame (.fault .fcRx)))) ∨
         (s.draws.oRx = .fault ∧ s.draws.oRxKeep = .consume ∧
            a = (.fault .fcRx, State.traced { s with rxb := rest } (.receiveFrame (.fault .fcRx))))) := by
  unfold callReceiveFrame
  cases s.rxb with
  | nil => simp
  | cons fr rest =>
    cases s.draws.oRx <;> cases s.draws.oRxKeep <;>
      simp [eq_comm, and_assoc]

/-- All that `TRANSMIT_FRAME` can answer (41_interface_ops R124). -/
theorem callTransmitFrame_eq_next {fr : Frame} {s : State} {a : Status × State} :
    callTransmitFrame fr s = .next a ↔
      s.buson = true ∧ frameWF fr = true ∧
        ((s.draws.oTx = .ok ∧ a = (.ok, (s.sent fr).traced (.transmitFrame fr .ok))) ∨
         (s.draws.oTx = .fault ∧ a = (.fault .fcTx, s.traced (.transmitFrame fr (.fault .fcTx))))) := by
  unfold callTransmitFrame
  cases s.buson <;> cases frameWF fr <;> cases s.draws.oTx <;> simp [eq_comm]

/-- All that `RX_OFFER` can answer (40_acceptance_filter R104). -/
theorem offerFrame_eq_next {fr : Frame} {s t : State} :
    offerFrame fr s = .next t ↔
      frameWF fr = true ∧
        ((offerStored s fr = true ∧ t = { s with rxb := storeFrame s.params s.rxb fr }) ∨
         (offerStored s fr = false ∧ t = s)) := by
  unfold offerFrame
  cases frameWF fr <;> cases offerStored s fr <;> simp [eq_comm]

/-- What `STORE` leaves in the buffer was there before or is the arriving frame (40_acceptance_filter R105). -/
theorem mem_storeFrame {p : Params} {rxb : List Frame} {fr x : Frame} (h : x ∈ storeFrame p rxb fr) :
    x ∈ rxb ∨ x = fr := by
  unfold storeFrame at h
  split at h
  · simpa using h
  · split at h
    · exact .inl h
    · rcases List.mem_append.1 h with h | h
      · exact .inl (List.mem_of_mem_tail h)
      · exact .inr (by simpa using h)
    · rcases List.mem_append.1 h with h | h
      · exact .inl (List.mem_of_mem_dropLast h)
      · exact .inr (by simpa using h)

@[simp] theorem seqOfCode_seqCode (q : SeqState) : seqOfCode (seqCode q) = q := by cases q <;> rfl

/-- On a sequencer line the micro-operation that `SEQ` selects is fetched (42_relay_sequencer R140). -/
theorem fetched_of_seqStep {s : State} {d : Draws} (h : s.line = .seqStep d) : fetched s = .ok (microOp s.seq) := by
  simp [fetched, h, decode]

theorem fetched_of_event {s : State} {bytes : List Byte} {d : Draws} (h : s.line = .event bytes d) :
    fetched s = decodeEvent bytes := by
  simp [fetched, h, decode]

theorem fetched_of_command {s : State} {bytes : List Byte} {d : Draws} (h : s.line = .command bytes d) :
    fetched s = decodeCommand bytes := by
  simp [fetched, h, decode]

/-- A step that goes on executed the fetched instruction and moved the schedule on. -/
theorem step_eq_next {s t : State} :
    step s = .next t ↔ ∃ i u, fetched s = .ok i ∧ exec i s = .next u ∧ t = advance u := by
  unfold step
  cases h : fetched s with
  | error e => simp
  | ok i =>
    simp only [bindResult_eq_next, Except.ok.injEq]
    constructor
    · rintro ⟨u, hu, ht⟩
      cases ht
      exact ⟨i, u, rfl, hu, rfl⟩
    · rintro ⟨i', u, rfl, hu, rfl⟩
      exact ⟨u, hu, rfl⟩

/-- A table is read exactly when its eight entries are (30_encoding R74). -/
theorem tableFrom_eq_ok {ε : Type} {entry : Nat → Except ε Entry} {t : Table} :
    tableFrom entry = .ok t ↔
      entry 0 = .ok t.f0 ∧ entry 1 = .ok t.f1 ∧ entry 2 = .ok t.f2 ∧ entry 3 = .ok t.f3 ∧ entry 4 = .ok t.f4 ∧
        entry 5 = .ok t.f5 ∧ entry 6 = .ok t.m0 ∧ entry 7 = .ok t.m1 := by
  unfold tableFrom
  constructor
  · intro h
    cases h0 : entry 0 <;> cases h1 : entry 1 <;> cases h2 : entry 2 <;> cases h3 : entry 3 <;>
      cases h4 : entry 4 <;> cases h5 : entry 5 <;> cases h6 : entry 6 <;> cases h7 : entry 7 <;>
      simp_all only [bind, Except.bind, pure, Except.pure, reduceCtorEq, Except.ok.injEq]
    subst h
    exact ⟨rfl, rfl, rfl, rfl, rfl, rfl, rfl, rfl⟩
  · rintro ⟨h0, h1, h2, h3, h4, h5, h6, h7⟩
    simp [h0, h1, h2, h3, h4, h5, h6, h7, bind, Except.bind, pure, Except.pure]

end Sys2Proof.Machine
end

