-- ==== Sys2Proof/Laws/PerInstr.lean ====
section
/-! SUPPORT. Statements about every instruction, one lemma per constructor. `EncodedLength`: the encoding lies in the code
space, begins with the match value and has the length that the instruction's row of spec/opcode_table.json gives. -/

namespace Sys2Proof.Laws.EncodedLength

/-- The row's `match` (an operation byte, an event byte or a sequencer code). -/
def rowMatch : Instr → Nat
  | .initBus _ => 0x01
  | .configureFilters _ => 0x02
  | .frameAvailable => 0x03
  | .receiveFrame => 0x04
  | .transmitFrame _ => 0x05
  | .diagSet _ => 0x06
  | .diagToggle => 0x07
  | .reset => 0x80
  | .rxOffer _ => 0x81
  | .sqInit => 0
  | .sqCfg => 1
  | .sqStx => 2
  | .sqPoll => 3
  | .sqFetch => 4
  | .sqXform => 5
  | .sqTx => 6
  | .sqHalt => 7

/-- The row's `width_bytes`; 0 for a row of three bits. -/
def rowBytes : Instr → Nat
  | .initBus _ => 5
  | .configureFilters _ => 33
  | .frameAvailable => 1
  | .receiveFrame => 1
  | .transmitFrame _ => 14
  | .diagSet _ => 2
  | .diagToggle => 1
  | .reset => 1
  | .rxOffer _ => 14
  | .sqInit | .sqCfg | .sqStx | .sqPoll | .sqFetch | .sqXform | .sqTx | .sqHalt => 0

/-- The encoding has its row's match value and length, and the first byte alone tells that length (30_encoding R82). -/
def Statement (i : Instr) : Prop :=
  match encode i with
  | .command [] => False
  | .command (b :: bs) => b.toNat = rowMatch i ∧ bs.length + 1 = rowBytes i ∧ wordLength b = some (rowBytes i)
  | .event [] => False
  | .event (b :: bs) => b.toNat = rowMatch i ∧ bs.length + 1 = rowBytes i ∧ wordLength b = some (rowBytes i)
  | .seqCode c => c.toNat = rowMatch i ∧ rowBytes i = 0

theorem initBus (n : Word32) : Statement (.initBus n) := ⟨rfl, rfl, rfl⟩
theorem configureFilters (t : Table) : Statement (.configureFilters t) := ⟨rfl, rfl, rfl⟩
theorem frameAvailable : Statement .frameAvailable := ⟨rfl, rfl, rfl⟩
theorem receiveFrame : Statement .receiveFrame := ⟨rfl, rfl, rfl⟩
theorem transmitFrame (fr : Frame) : Statement (.transmitFrame fr) := ⟨rfl, rfl, rfl⟩
theorem diagSet (b : Bool) : Statement (.diagSet b) := ⟨rfl, rfl, rfl⟩
theorem diagToggle : Statement .diagToggle := ⟨rfl, rfl, rfl⟩
theorem reset : Statement .reset := ⟨rfl, rfl, rfl⟩
theorem rxOffer (fr : Frame) : Statement (.rxOffer fr) := ⟨rfl, rfl, rfl⟩
theorem sqInit : Statement .sqInit := ⟨rfl, rfl⟩
theorem sqCfg : Statement .sqCfg := ⟨rfl, rfl⟩
theorem sqStx : Statement .sqStx := ⟨rfl, rfl⟩
theorem sqPoll : Statement .sqPoll := ⟨rfl, rfl⟩
theorem sqFetch : Statement .sqFetch := ⟨rfl, rfl⟩
theorem sqXform : Statement .sqXform := ⟨rfl, rfl⟩
theorem sqTx : Statement .sqTx := ⟨rfl, rfl⟩
theorem sqHalt : Statement .sqHalt := ⟨rfl, rfl⟩

end Sys2Proof.Laws.EncodedLength
end

