-- ==== Sys2Proof/Tests/Slice0.lean ====
section
/-! SUPPORT. Named tests. Expected values are the spec's: the encodings of 30_encoding.md and the vectors of
95_test_vectors.md (their names stand in the docstrings), with that file's parameters. The theorems named `witness_…`
show a concrete state and operands that meet every hypothesis of the statement they name. -/

namespace Sys2Proof.Machine.Tests

/-! ### Helpers -/

/-- A standard data frame. -/
def std (id : Ident) (data : List Byte) : Frame :=
  { id := id, ext := false, rtr := false, len := BitVec.ofNat 4 data.length, data := data }

/-- An extended data frame. -/
def ext (id : Ident) (data : List Byte) : Frame :=
  { id := id, ext := true, rtr := false, len := BitVec.ofNat 4 data.length, data := data }

/-- The same frame as a remote request. -/
def rtr (fr : Frame) : Frame := { fr with rtr := true }

/-- What a predicate says of the next state; false for a stop. -/
def next (r : Result State) (p : State → Bool) : Bool :=
  match r with
  | .next t => p t
  | _ => false

/-- The refusal answered, if any. -/
def refusal (r : Result State) : Option Refusal :=
  match r with
  | .refused e => some e
  | _ => none

/-- The item decoded, if any. -/
def item (r : Except DecodeError Instr) : Option Instr :=
  match r with
  | .ok i => some i
  | .error _ => none

/-- The reason an item is invalid, if it is. -/
def invalid {α : Type} (r : Except DecodeError α) : Option DecodeError :=
  match r with
  | .ok _ => none
  | .error e => some e

/-- The tuple `SEQ BUSON CFGD HFV TXF DIAG` of 95_test_vectors.md. -/
def tuple (s : State) : Nat × Bool × Bool × Bool × Bool × Bool :=
  ((seqCode s.seq).toNat, s.buson, s.cfgd, s.hfv, s.txf, s.diag)

/-- All draws answer a fault; a faulted fetch keeps its frame. -/
def faultDraws : Draws := { oInit := .fault, oCfg := .fault, oRx := .fault, oRxKeep := .keep, oTx := .fault, oPre := .reject }

/-- A faulted fetch that loses its frame. -/
def consumeDraws : Draws := { faultDraws with oRxKeep := .consume }

/-- The state after reset with the vectors' parameters. -/
def fresh : State := State.resetWith Config.vectorParams

/-- The next step is a sequencer step with these answers. -/
def withStep (s : State) (d : Draws) : State := { s with script := [.seqStep d] }

/-- `FILTER_CONFIG` (D-SEQ `1 1 0 0 0 1`). -/
def configState : State :=
  { fresh with
    seq := .filterConfig, buson := true, bitrate := 500000#32, diag := true
    trace := [.initBus 500000#32 .ok], diaglog := [.level true] }

/-- `STARTUP_TX` (D-SEQ `2 1 1 0 0 0`). -/
def startupState : State :=
  { configState with
    seq := .startupTx, cfgd := true, filters := Config.table, diag := false
    trace := configState.trace ++ [.configureFilters Config.table .ok], diaglog := [.level true, .level false] }

/-- "Ready" (95_test_vectors.md, conventions). -/
def ready : State :=
  { startupState with
    seq := .relayPoll, diag := true
    trace := startupState.trace ++ [.transmitFrame Config.diagFrame .ok], txout := [.frame Config.diagFrame]
    diaglog := [.level true, .level false, .level true] }

/-- The frame of program P1. -/
def waiting : Frame := std 0x004#29 [0x11#8, 0x22#8]

/-- Ready, with the frame of P1 in `RXB`. -/
def pollState : State := { ready with rxb := [waiting] }

/-- `RELAY_FETCH` with the frame of P1 in `RXB`. -/
def fetchState : State :=
  { pollState with seq := .relayFetch, trace := ready.trace ++ [.frameAvailable true] }

/-- `RELAY_XFORM` with the frame of P1 held. -/
def xformState : State :=
  { fetchState with
    seq := .relayXform, rxb := [], hf := loadHeld waiting, hfv := true
    trace := fetchState.trace ++ [.receiveFrame (.ok waiting)] }

/-- `RELAY_TX` with the transformed frame of P1 held. -/
def txState : State := { xformState with seq := .relayTx, hf := { loadHeld waiting with id := 0x00E#29 } }

/-- `HALTED` after a fault in `FILTER_CONFIG` (program P3, line 2). -/
def haltState : State :=
  { configState with
    seq := .halted, params := { Config.vectorParams with cfgFault := .halt }
    trace := configState.trace ++ [.configureFilters Config.table (.fault .fcCfgMode)] }

/-- `TABLE` with `F0 = std:0x800` (D-CFG). -/
def tableTooWide : Table := { Config.table with f0 := { x := false, v := 0x800#29 } }

/-- `TABLE` with `F2 = ext:0x0FF` (D-CFG, program P7). -/
def tableMixedGroup : Table := { Config.table with f2 := { x := true, v := 0x0FF#29 } }

/-- T-MIX (D-GROUP). -/
def tableMix : Table :=
  { f0 := { x := false, v := 0x100#29 }, f1 := { x := false, v := 0x200#29 }, f2 := { x := true, v := 0#29 },
    f3 := { x := true, v := 1#29 }, f4 := { x := true, v := 2#29 }, f5 := { x := true, v := 3#29 },
    m0 := { x := false, v := 0x700#29 }, m1 := { x := true, v := 0x1FFFFFFF#29 } }

/-- A table whose group 0 has an all-zero mask (V9). -/
def tableAcceptAll : Table :=
  { Config.table with
    f0 := { x := false, v := 0x123#29 }, f1 := { x := false, v := 0x123#29 }, m0 := { x := false, v := 0#29 } }

/-! ### Well-formedness: each check refuses an ill-formed term -/

theorem test_wf_len_nine : (Instr.transmitFrame (std 0x004#29 (List.replicate 9 0#8))).wf = false := by decide
theorem test_wf_len_not_payload : (Instr.rxOffer { std 0x004#29 [0#8] with len := 2#4 }).wf = false := by decide
theorem test_wf_standard_too_wide : (Instr.rxOffer (std 0x800#29 [])).wf = false := by decide
theorem test_wf_largest : (Instr.rxOffer (ext 0x1FFFFFFF#29 (List.replicate 8 0xFF#8))).wf = true := by decide
theorem test_wf_params : Params.wf { Config.vectorParams with rxCap := 0 } = false := by decide
/-- R106 (d). -/
theorem test_table_too_wide : tableWF tableTooWide = false := by decide
/-- R106 (d). -/
theorem test_table_mixed_group : tableWF tableMixedGroup = false := by decide
/-- D-CFG, row 5. -/
theorem test_table_mask_tag :
    tableWF { Config.table with f0 := { x := true, v := 0#29 }, f1 := { x := true, v := 0#29 } } = false := by decide
/-- R106 (c). -/
theorem test_table_groups_differ : tableWF tableMix = true := by decide
theorem test_table_deployment : tableWF Config.table = true := by decide

/-! ### Decoding: words written out from 30_encoding.md -/

theorem test_decode_init_bus :
    item (decode (.command [0x01#8, 0x20#8, 0xA1#8, 0x07#8, 0x00#8])) = some (.initBus 500000#32) := by decide
/-- P5's table image. -/
theorem test_decode_configure_filters :
    item (decode (.command
      [0x02#8, 0xF0#8, 0x07#8, 0x00#8, 0x00#8, 0xF0#8, 0x07#8, 0x00#8, 0x00#8, 0x00#8, 0x00#8, 0x00#8, 0x80#8, 0x00#8,
        0x00#8, 0x00#8, 0x80#8, 0x00#8, 0x00#8, 0x00#8, 0x80#8, 0x00#8, 0x00#8, 0x00#8, 0x80#8, 0xF0#8, 0x07#8, 0x00#8,
        0x00#8, 0x00#8, 0x00#8, 0x00#8, 0x80#8])) =
      some (.configureFilters
        { f0 := { x := false, v := 0x7F0#29 }, f1 := { x := false, v := 0x7F0#29 }, f2 := { x := true, v := 0#29 },
          f3 := { x := true, v := 0#29 }, f4 := { x := true, v := 0#29 }, f5 := { x := true, v := 0#29 },
          m0 := { x := false, v := 0x7F0#29 }, m1 := { x := true, v := 0#29 } }) := by decide
theorem test_decode_frame_available : item (decode (.command [0x03#8])) = some .frameAvailable := by decide
theorem test_decode_receive_frame : item (decode (.command [0x04#8])) = some .receiveFrame := by decide
/-- V7. -/
theorem test_decode_transmit_frame :
    item (decode (.command [0x05#8, 0x56#8, 0x34#8, 0x12#8, 0x80#8, 0x04#8, 0xDE#8, 0xAD#8, 0xBE#8, 0xEF#8, 0x00#8,
      0x00#8, 0x00#8, 0x00#8])) =
      some (.transmitFrame (ext 0x123456#29 [0xDE#8, 0xAD#8, 0xBE#8, 0xEF#8])) := by decide
theorem test_decode_diag_set_on : item (decode (.command [0x06#8, 0x01#8])) = some (.diagSet true) := by decide
theorem test_decode_diag_set_off : item (decode (.command [0x06#8, 0x00#8])) = some (.diagSet false) := by decide
theorem test_decode_diag_toggle : item (decode (.command [0x07#8])) = some .diagToggle := by decide
theorem test_decode_reset : item (decode (.event [0x80#8])) = some .reset := by decide
/-- P4, line 1: a remote frame. -/
theorem test_decode_rx_offer :
    item (decode (.event [0x81#8, 0xFF#8, 0x00#8, 0x00#8, 0x20#8, 0x00#8, 0x00#8, 0x00#8, 0x00#8, 0x00#8, 0x00#8,
      0x00#8, 0x00#8, 0x00#8])) = some (.rxOffer (rtr (std 0x0FF#29 []))) := by decide
theorem test_decode_sq_init : item (decode (.seqCode 0b000#3)) = some .sqInit := by decide
theorem test_decode_sq_cfg : item (decode (.seqCode 0b001#3)) = some .sqCfg := by decide
theorem test_decode_sq_stx : item (decode (.seqCode 0b010#3)) = some .sqStx := by decide
theorem test_decode_sq_poll : item (decode (.seqCode 0b011#3)) = some .sqPoll := by decide
theorem test_decode_sq_fetch : item (decode (.seqCode 0b100#3)) = some .sqFetch := by decide
theorem test_decode_sq_xform : item (decode (.seqCode 0b101#3)) = some .sqXform := by decide
theorem test_decode_sq_tx : item (decode (.seqCode 0b110#3)) = some .sqTx := by decide
theorem test_decode_sq_halt : item (decode (.seqCode 0b111#3)) = some .sqHalt := by decide

/-- D-ENC, valid images. -/
theorem test_image_std_rtr :
    encodeFrame (rtr (std 0x7FF#29 [0xAA#8])) =
      [0xFF#8, 0x07#8, 0x00#8, 0x20#8, 0x01#8, 0xAA#8, 0x00#8, 0x00#8, 0x00#8, 0x00#8, 0x00#8, 0x00#8, 0x00#8] := by decide
theorem test_image_ext_rtr :
    encodeFrame (rtr (ext 0x1FFFFFFF#29 [])) =
      [0xFF#8, 0xFF#8, 0xFF#8, 0xBF#8, 0x00#8, 0x00#8, 0x00#8, 0x00#8, 0x00#8, 0x00#8, 0x00#8, 0x00#8, 0x00#8] := by decide
theorem test_image_full :
    encodeFrame (std 0x7FA#29 [1#8, 2#8, 3#8, 4#8, 5#8, 6#8, 7#8, 8#8]) =
      [0xFA#8, 0x07#8, 0x00#8, 0x00#8, 0x08#8, 1#8, 2#8, 3#8, 4#8, 5#8, 6#8, 7#8, 8#8] := by decide
/-- D-ENC, invalid images, in the vector's order. -/
theorem test_image_id_too_wide :
    invalid (decodeFrame ([0x00#8, 0x08#8, 0x00#8, 0x00#8, 0x00#8] ++ List.replicate 8 0#8)) = some .frameIdTooWide := by
  decide
theorem test_image_reserved_bit :
    invalid (decodeFrame ([0x04#8, 0x00#8, 0x00#8, 0x40#8, 0x00#8] ++ List.replicate 8 0#8)) = some .frameReservedBit := by
  decide
theorem test_image_len_nine :
    invalid (decodeFrame ([0x04#8, 0x00#8, 0x00#8, 0x00#8, 0x09#8] ++ List.replicate 8 0#8)) = some .frameLenTooLong := by
  decide
theorem test_image_len_high_nibble :
    invalid (decodeFrame ([0x04#8, 0x00#8, 0x00#8, 0x00#8, 0x12#8, 0x11#8, 0x22#8] ++ List.replicate 6 0#8)) =
      some .frameReservedLenBits := by decide
theorem test_image_pad :
    invalid (decodeFrame ([0x04#8, 0x00#8, 0x00#8, 0x00#8, 0x01#8, 0x11#8, 0x22#8] ++ List.replicate 6 0#8)) =
      some .framePadNonZero := by decide
/-- D-CFG: entry images `00 08 00 00`, `FF 00 00 80`, and the invalid `FF 00 00 20`. -/
theorem test_entry_images :
    encodeEntry { x := false, v := 0x800#29 } = [0x00#8, 0x08#8, 0x00#8, 0x00#8] ∧
    encodeEntry { x := true, v := 0x0FF#29 } = [0xFF#8, 0x00#8, 0x00#8, 0x80#8] ∧
    invalid (decodeEntryWord (wordOfBytes 0xFF#8 0x00#8 0x00#8 0x20#8)) = some .entryReservedBits := by decide
/-- D-ENC: word lengths and reserved first bytes. -/
theorem test_word_lengths :
    [0x01#8, 0x02#8, 0x03#8, 0x04#8, 0x05#8, 0x06#8, 0x07#8, 0x80#8, 0x81#8].map wordLength =
        [some 5, some 33, some 1, some 1, some 14, some 2, some 1, some 1, some 14] ∧
      [0x00#8, 0x08#8, 0x7F#8, 0x82#8, 0xFF#8].map wordLength = [none, none, none, none, none] := by decide
theorem test_reserved_operation : invalid (decode (.command [0x08#8])) = some (.reservedOperation 0x08#8) := by decide
theorem test_reserved_event : invalid (decode (.event [0x82#8])) = some (.reservedEvent 0x82#8) := by decide
theorem test_command_is_no_event : invalid (decode (.event [0x03#8])) = some (.reservedEvent 0x03#8) := by decide
/-- D-OPS: the words that cross the interface in a successful fetch. -/
theorem test_trace_words :
    traceWords (.receiveFrame (.ok waiting)) =
      some (.command [0x04#8], [0x00#8, 0x04#8, 0x00#8, 0x00#8, 0x00#8, 0x02#8, 0x11#8, 0x22#8, 0x00#8, 0x00#8, 0x00#8,
        0x00#8, 0x00#8, 0x00#8]) := by decide
theorem test_rom_default : readTable fresh.rom = .next Config.table := rfl
/-- P7's ROM: bytes 8 to 11 become `FF 00 00 80`, one of which differs from the deployment image. -/
theorem test_rom_other_table : romOfTable tableMixedGroup = [(11, 0x80#8)] := by decide

/-! ### Words given as one number (log 6, 8) -/

theorem test_table_word_init : decodeTableWord 40 0x0007A12001 = some (.initBus 500000#32) := by decide
theorem test_table_word_offer : decodeTableWord 112 0x2211020000000481 = some (.rxOffer waiting) := by decide
theorem test_table_word_seq : decodeTableWord 8 5 = some .sqXform := by decide
theorem test_fetch_word_init :
    next (step (State.withFetchWord fresh 40 0x0007A12001)) (fun t => t.buson && t.bitrate == 500000#32) = true := by
  decide
theorem test_fetch_word_seq :
    next (step (State.withFetchWord fresh 8 5)) (fun t => t.hf.id == 10#29 && t.seq == .relayTx) = true := by decide

/-! ### One step of each instruction -/

/-- D-OPS. -/
theorem test_init_bus_ok :
    next (exec (.initBus 500000#32) (withStep fresh okDraws)) (fun t => t.buson && t.bitrate == 500000#32) = true := by
  decide
theorem test_init_bus_fault :
    next (exec (.initBus 500000#32) (withStep fresh faultDraws))
      (fun t => !t.buson && t.trace == [.initBus 500000#32 (.fault .fcInit)]) = true := by decide
/-- D-CFG: T-MIX is installed, `GX = [0, 1]`. -/
theorem test_configure_ok :
    next (exec (.configureFilters tableMix) (withStep configState okDraws))
      (fun t => t.cfgd && t.filters == tableMix && groupTag t 0 == some false && groupTag t 1 == some true) = true := by
  decide
/-- D-CFG: the table check comes first. -/
theorem test_configure_ill_formed :
    next (exec (.configureFilters tableTooWide) (withStep configState faultDraws))
      (fun t => !t.cfgd && t.trace.getLast? == some (.configureFilters tableTooWide (.fault .fcCfgTable))) = true := by
  decide
theorem test_frame_available_empty :
    next (exec .frameAvailable fresh) (fun t => t.trace == [.frameAvailable false]) = true := by decide
theorem test_frame_available_waiting :
    next (exec .frameAvailable pollState) (fun t => t.trace.getLast? == some (.frameAvailable true) && t.rxb == [waiting]) =
      true := by decide
/-- D-OPS: the oldest is delivered. -/
theorem test_receive_ok :
    next (exec .receiveFrame (withStep { ready with rxb := [waiting, rtr (std 0x0FF#29 [])] } okDraws))
      (fun t => t.rxb == [rtr (std 0x0FF#29 [])] && t.trace.getLast? == some (.receiveFrame (.ok waiting))) = true := by
  decide
theorem test_receive_consume :
    next (exec .receiveFrame (withStep { ready with rxb := [waiting, rtr (std 0x0FF#29 [])] } consumeDraws))
      (fun t => t.rxb == [rtr (std 0x0FF#29 [])] && t.trace.getLast? == some (.receiveFrame (.fault .fcRx))) = true := by
  decide
theorem test_transmit_ok :
    next (exec (.transmitFrame (std 0x00E#29 [0x11#8, 0x22#8])) (withStep ready okDraws))
      (fun t => t.txout == [.frame Config.diagFrame, .frame (std 0x00E#29 [0x11#8, 0x22#8])]) = true := by decide
/-- The operation itself writes no flag. -/
theorem test_transmit_fault :
    next (exec (.transmitFrame waiting) (withStep ready faultDraws)) (fun t => !t.txf && t.txout == ready.txout) = true := by
  decide
theorem test_diag_set : next (exec (.diagSet false) fresh) (fun t => !t.diag && t.diaglog == [.level false]) = true := by
  decide
theorem test_diag_toggle :
    next (exec .diagToggle ready) (fun t => !t.diag && t.diaglog.getLast? == some (.level false)) = true := by decide
/-- D-RESET. -/
theorem test_reset :
    next (exec .reset xformState)
      (fun t => tuple t == (0, false, false, false, false, false) && t.rxb == [] && t.diaglog.getLast? == some .reset) =
      true := by decide
theorem test_reset_leaves_halt : next (exec .reset haltState) (fun t => t.seq == .booting) = true := by decide
/-- D-OFFER: accepted and rejected. -/
theorem test_offer_accepted : next (exec (.rxOffer waiting) ready) (fun t => t.rxb == [waiting]) = true := by decide
theorem test_offer_rejected :
    next (exec (.rxOffer (std 0x00E#29 [0x11#8, 0x22#8])) ready) (fun t => t.rxb == [] && t.trace == ready.trace) = true := by
  decide
/-- D-OFFER: before the table is installed, under `DRAW`. -/
theorem test_offer_precfg :
    next (exec (.rxOffer (std 0x123#29 [9#8]))
      (withStep { configState with params := { Config.vectorParams with precfg := .draw } } okDraws))
      (fun t => t.rxb == [std 0x123#29 [9#8]]) = true := by decide
theorem test_offer_ill_formed : refusal (exec (.rxOffer (std 0x800#29 [])) ready) = some .offerIllFormed := by decide
/-- D-STORE: the three overflow policies. -/
theorem test_store_overflow :
    let full := [std 0x000#29 [0#8], std 0x004#29 [4#8]]
    let third := std 0x008#29 [8#8]
    let p := Config.vectorParams
    storeFrame p full third = full ∧
      storeFrame { p with rxOvf := .dropOldest } full third = [std 0x004#29 [4#8], third] ∧
      storeFrame { p with rxOvf := .replaceNewest } full third = [std 0x000#29 [0#8], third] := by decide
/-- D-SEQ, one step from each state. -/
theorem test_sq_init_ok :
    next (step (withStep fresh okDraws)) (fun t => tuple t == (1, true, false, false, false, true)) = true := by decide
theorem test_sq_init_fault_halt :
    next (step (withStep { fresh with params := { Config.vectorParams with cfgFault := .halt } } faultDraws))
      (fun t => tuple t == (7, false, false, false, false, false)) = true := by decide
theorem test_sq_cfg_ok :
    next (step (withStep configState okDraws))
      (fun t => tuple t == (2, true, true, false, false, false) && t.filters == Config.table) = true := by decide
/-- P7. -/
theorem test_sq_cfg_ill_formed :
    next (step (withStep { configState with rom := romOfTable tableMixedGroup } okDraws))
      (fun t => tuple t == (1, true, false, false, false, true)) = true := by decide
theorem test_sq_stx_ok :
    next (step (withStep startupState okDraws))
      (fun t => tuple t == (3, true, true, false, false, true) && t.txout == [.frame Config.diagFrame]) = true := by decide
theorem test_sq_stx_fault :
    next (step (withStep startupState faultDraws))
      (fun t => tuple t == (3, true, true, false, true, true) && t.txout == []) = true := by decide
theorem test_sq_poll_empty :
    next (step (withStep ready okDraws)) (fun t => tuple t == tuple ready && t.txout == ready.txout) = true := by decide
theorem test_sq_poll_waiting :
    next (step (withStep pollState okDraws)) (fun t => tuple t == (4, true, true, false, false, true)) = true := by decide
theorem test_sq_fetch_ok :
    next (step (withStep fetchState okDraws))
      (fun t => tuple t == (5, true, true, true, false, true) && t.rxb == [] && heldFrame t.hf == waiting) = true := by
  decide
theorem test_sq_fetch_fault :
    next (step (withStep fetchState faultDraws))
      (fun t => tuple t == (3, true, true, false, false, true) && t.rxb == [waiting]) = true := by decide
theorem test_sq_xform :
    next (step (withStep xformState okDraws))
      (fun t => tuple t == (6, true, true, true, false, true) &&
        heldFrame t.hf == std 0x00E#29 [0x11#8, 0x22#8]) = true := by decide
theorem test_sq_xform_reject :
    next (step (withStep
      { xformState with
        hf := loadHeld (std 0x7FA#29 []), params := { Config.vectorParams with idOvf := .reject } } okDraws))
      (fun t => tuple t == (3, true, true, false, false, true)) = true := by decide
theorem test_sq_tx_ok :
    next (step (withStep txState okDraws))
      (fun t => tuple t == (3, true, true, false, false, true) &&
        t.txout.getLast? == some (.frame (std 0x00E#29 [0x11#8, 0x22#8]))) = true := by decide
theorem test_sq_tx_fault :
    next (step (withStep txState faultDraws))
      (fun t => tuple t == (3, true, true, false, true, true) && t.txout == ready.txout) = true := by decide
theorem test_sq_halt :
    next (step (withStep haltState okDraws)) (fun t => tuple t == tuple haltState && t.trace == haltState.trace) = true := by
  decide
/-- An event line runs the event whatever `SEQ` is. -/
theorem test_step_event :
    next (step { ready with script := [offerLine waiting okDraws] }) (fun t => t.rxb == [waiting] && t.script == []) =
      true := by decide
theorem test_step_invalid_event :
    refusal (step { ready with script := [.event [0x82#8] okDraws] }) = some (.invalidWord (.reservedEvent 0x82#8)) := by
  decide

/-! ### The filter and the transform -/

/-- D-MATCH, the rows that single out one bit. -/
theorem test_match_single_bits :
    let t := { Config.table with f0 := { x := false, v := 0x555#29 }, m0 := { x := false, v := 0x400#29 } }
    matchFilter t (std 0x400#29 []) 0 = true ∧ matchFilter t (std 0x3FF#29 []) 0 = false ∧
      matchFilter Config.table (std 0x40C#29 []) 0 = false ∧ matchFilter Config.table (ext 0x0FF#29 []) 2 = false := by
  decide
/-- D-ACCEPT, table T-MIX. -/
theorem test_accept_mix :
    [std 0x1AB#29 [], std 0x2FF#29 [], std 0x300#29 [], ext 2#29 [], ext 4#29 [], ext 0x100#29 [], std 2#29 []].map
      (accept tableMix) = [true, true, false, true, false, false, false] := by decide
/-- D-XFORM, rows at the edges of both widths. -/
theorem test_xform_standard :
    xform .wrap 0x7F5#29 false = (0x7FF#29, true) ∧ xform .wrap 0x7F6#29 false = (0x000#29, true) ∧
      xform .saturate 0x7F6#29 false = (0x7FF#29, true) ∧ (xform .reject 0x7F6#29 false).2 = false ∧
      xform .reject 0x7F5#29 false = (0x7FF#29, true) := by decide
theorem test_xform_extended :
    xform .wrap 0x7FF#29 true = (0x809#29, true) ∧ xform .wrap 0x1FFFFFFF#29 true = (0x9#29, true) ∧
      xform .saturate 0x1FFFFFF6#29 true = (0x1FFFFFFF#29, true) ∧ (xform .reject 0x1FFFFFF6#29 true).2 = false ∧
      xform .reject 0x1FFFFFF5#29 true = (0x1FFFFFFF#29, true) := by decide

/-! ### Script text (30_encoding R83) -/

theorem test_read_offer :
    readLine "rx_offer std:0x0FF rtr []".toList = some (offerLine (rtr (std 0x0FF#29 [])) okDraws) := by decide
theorem test_read_payload :
    readLine "rx_offer std:0x004 [11 22]".toList =
      some (.event [0x81#8, 0x04#8, 0x00#8, 0x00#8, 0x00#8, 0x02#8, 0x11#8, 0x22#8, 0x00#8, 0x00#8, 0x00#8, 0x00#8,
        0x00#8, 0x00#8] okDraws) := by decide
theorem test_read_step :
    readLine "step o_rx=FAULT o_rxkeep=CONSUME".toList =
      some (.seqStep { okDraws with oRx := .fault, oRxKeep := .consume }) := by decide
/-- A draw named twice: the model's choice (log 19). -/
theorem test_read_repeated_draw :
    readLine "step o_tx=OK o_tx=FAULT".toList = some (.seqStep { okDraws with oTx := .fault }) := by decide
theorem test_read_unreadable : readLine "step o_rx=MAYBE".toList = none := by decide
/-- Naming a draw the step does not take is an error of the script. -/
theorem test_step_line_fits :
    stepLineFits fetchState "step o_rx=FAULT o_rxkeep=KEEP" = true ∧
      stepLineFits fetchState "step o_rx=OK o_rxkeep=KEEP" = false ∧ stepLineFits ready "step o_tx=OK" = false := by
  decide
theorem test_show_trace :
    showTraceEntry (.transmitFrame Config.diagFrame (.fault .fcTx)) =
      "transmit_frame ext:0x123456 [DE AD BE EF] -> FAULT 05" := by decide
theorem test_show_call : showOperation (.initBus 500000#32) = some "init_bus 500000" := by decide

/-! ### Witnesses for the hypotheses of the statements -/

theorem witness_DecodeEncodeRoundTrip :
    (Instr.transmitFrame Config.diagFrame).wf = true ∧ (Instr.rxOffer (std 0x7FF#29 (List.replicate 8 0xFF#8))).wf = true ∧
      (Instr.rxOffer (rtr (ext 0x1FFFFFFF#29 []))).wf = true ∧ (Instr.configureFilters tableTooWide).wf = true := by
  decide

theorem witness_DecodedItemsReencode :
    decode (.event [0x81#8, 0xFF#8, 0x07#8, 0x00#8, 0x20#8, 0x01#8, 0xAA#8, 0x00#8, 0x00#8, 0x00#8, 0x00#8, 0x00#8, 0x00#8,
      0x00#8]) = .ok (.rxOffer (rtr (std 0x7FF#29 [0xAA#8]))) := rfl

/-- Valid images with no and with eight payload bytes, and a string of another length. -/
theorem witness_FrameImagesAreExactlyTheValidStrings :
    (let b := [0xFF#8, 0x07#8, 0x00#8, 0x20#8]
     (leNat b).testBit 30 = false ∧ (0x00#8).toNat / 16 = 0 ∧ (0x00#8).toNat % 16 ≤ 8 ∧
      (leNat b).testBit 31 = false ∧ leNat b / 2 ^ 11 % 2 ^ 18 = 0) ∧
    (let b := [0xFF#8, 0xFF#8, 0xFF#8, 0xBF#8]
     (leNat b).testBit 30 = false ∧ (0x08#8).toNat / 16 = 0 ∧ (0x08#8).toNat % 16 ≤ 8 ∧ (leNat b).testBit 31 = true) ∧
    (leNat [0x04#8, 0x00#8, 0x00#8, 0x40#8]).testBit 30 = true ∧ ([0#8] : List Byte).length ≠ 13 ∧
    frameWF Config.diagFrame = true := by decide

theorem witness_ReservedEncodingsAreInvalid :
    (0#8 : Byte) = 0#8 ∧ 8 ≤ (0x08#8).toNat ∧ 8 ≤ (0xFF#8).toNat ∧ 0x7F#8 ≠ 0x80#8 ∧ 0x82#8 ≠ 0x81#8 ∧ 2 ≤ (2#8).toNat ∧
      6 ≤ (6#8).toNat ∧ 6 ≤ (0xFF#8).toNat := by decide

theorem witness_FirstByteFixesTheLength :
    decode (.command (0x02#8 :: Config.romImage)) = .ok (.configureFilters Config.table) ∧
      decode (.command (0x06#8 :: [0x01#8])) = .ok (.diagSet true) ∧ decode (.event (0x80#8 :: [])) = .ok .reset :=
  ⟨rfl, rfl, rfl⟩

theorem witness_ResponseWordsRoundTrip : frameWF waiting = true ∧ frameWF (rtr (ext 0x1FFFFFFF#29 [])) = true := by decide

/-- A ROM with extended entries, and one whose entry 0 has the reserved bit 29 set. -/
theorem witness_RomHoldsTheDeploymentTable :
    (∀ a, a < 32 → romByte (romOfTable tableMix) a = .ok ((encodeTable tableMix).getD a 0#8)) ∧
    readTable (romOfTable tableMix) = .next tableMix ∧
    (∀ a, a < 32 → romByte (romPut [] 3 0x20#8) a = .ok (if a = 3 then 0x20#8 else romDefault a)) ∧
    readTable (romPut [] 3 0x20#8) = .refused (.invalidRomEntry .entryReservedBits) := by
  refine ⟨?_, rfl, ?_, rfl⟩
  · intro a ha
    interval_cases a <;> rfl
  · intro a ha
    interval_cases a <;> rfl

/-- The last address that reads and the first that does not, of one byte and of four. -/
theorem witness_RomEndsAtAddress31 :
    romByte [] 31 = .ok 0x00#8 ∧ romByte [] 32 = .error (.romAddress 32) ∧ memRead [] 28 4 = .ok 0x7FF ∧
      (∃ e, memRead [] 29 4 = .error e) := ⟨rfl, rfl, rfl, _, rfl⟩

theorem witness_NothingWritesTheRomOrTheParameters : ∃ t, exec .sqCfg (withStep configState okDraws) = .next t := ⟨_, rfl⟩

/-- Both sides of the comparison occur. -/
theorem witness_MatchComparesBitByBit :
    matchFilter Config.table (std 0x00C#29 []) 0 = true ∧ matchFilter Config.table (std 0x00E#29 []) 0 = false := by decide

theorem witness_GroupAcceptsOnAnyOfItsFilters :
    groupAccept tableMix (std 0x2FF#29 []) 0 = true ∧ groupAccept tableMix (std 0x2FF#29 []) 1 = false := by decide

theorem witness_FilterReadsOnlyWidthAndIdentifier :
    (rtr (std 0x004#29 [])).ext = (std 0x004#29 [1#8, 2#8]).ext ∧ (rtr (std 0x004#29 [])).id = (std 0x004#29 [1#8, 2#8]).id ∧
      rtr (std 0x004#29 []) ≠ std 0x004#29 [1#8, 2#8] := by decide

theorem witness_ZeroMaskAcceptsItsWidthClass :
    let s := { ready with filters := tableAcceptAll }
    s.cfgd = true ∧ tableWF s.filters = true ∧ (maskEntry s.filters 0).v = 0#29 ∧
      groupAccept s.filters (std 0x7FF#29 []) 0 = true ∧ groupAccept s.filters (ext 0x7FF#29 []) 0 = false := by decide

theorem witness_DeploymentAcceptsFiveIdentifiers :
    frameWF (std 0x0FF#29 []) = true ∧ accept Config.table (std 0x0FF#29 []) = true ∧ frameWF (std 0x00E#29 []) = true ∧
      accept Config.table (std 0x00E#29 []) = false := by decide

theorem witness_DeploymentRelaysPlusTenUnderEveryPolicy :
    frameWF (std 0x0FF#29 []) = true ∧ accept Config.table (std 0x0FF#29 []) = true := by decide

/-- One frame whose relayed form is accepted, one that is itself accepted. -/
theorem witness_DeploymentEchoesAreRejected :
    frameWF (std 0x7F6#29 []) = true ∧ relayFrame .wrap (std 0x7F6#29 []) = some (std 0x000#29 []) ∧
      frameWF (std 0x0FF#29 []) = true ∧ relayFrame .wrap (std 0x0FF#29 []) = some (std 0x109#29 []) ∧
      accept Config.table (std 0x0FF#29 []) = true := by decide

/-- Each clause: one place left, none left under each policy, the buffer within its capacity. -/
theorem witness_StoreFollowsTheOverflowPolicy :
    let p := Config.vectorParams
    [waiting].length < p.rxCap ∧ p.rxCap ≤ [waiting, waiting].length ∧ p.rxOvf = .dropNew ∧
      ({ p with rxOvf := .dropOldest } : Params).rxOvf = .dropOldest ∧ [waiting, waiting] = waiting :: [waiting] ∧
      ({ p with rxOvf := .replaceNewest } : Params).rxOvf = .replaceNewest ∧ [waiting, waiting] = [waiting] ++ [waiting] ∧
      1 ≤ p.rxCap ∧ [waiting, waiting].length ≤ p.rxCap := by decide

theorem witness_InitBusResult : (withStep fresh okDraws).draws.oInit = .ok ∧ (withStep fresh faultDraws).draws.oInit = .fault := by
  decide

/-- The last clause: a well-formed table of both widths, and one that fails only the width of a value. -/
theorem witness_ConfigureFiltersResult :
    configState.buson = true ∧ fresh.buson = false ∧ tableWF tableMix = true ∧ tableWF tableTooWide = false ∧
      tableTooWide.f0.x = tableTooWide.m0.x := by decide

theorem witness_ReceiveFrameResult : pollState.rxb = waiting :: [] ∧ fresh.rxb = [] := by decide

theorem witness_TransmitFrameResult :
    ready.buson = true ∧ frameWF waiting = true ∧ fresh.buson = false ∧ frameWF (std 0x800#29 []) = false := by decide

theorem witness_RxOfferResult : frameWF waiting = true ∧ frameWF (std 0x800#29 []) = false := by decide

theorem witness_SqCfgResult :
    readTable configState.rom = .next Config.table ∧ configState.buson = true ∧ fresh.buson = false ∧
      readTable ({ configState with rom := romPut [] 3 0x20#8 } : State).rom =
        .refused (.invalidRomEntry .entryReservedBits) := ⟨rfl, rfl, rfl, rfl⟩

theorem witness_SqStxResult : startupState.buson = true ∧ fresh.buson = false := by decide

theorem witness_SqPollResult : ready.rxb = [] ∧ pollState.rxb ≠ [] := by decide

/-- A frame of two bytes: index 2 is the first pad, index 1 the last payload byte; and the empty buffer. -/
theorem witness_SqFetchResult :
    fetchState.rxb = waiting :: [] ∧ waiting.len.toNat = 2 ∧ (heldBytes (loadHeld waiting)).getD 2 1#8 = 0#8 ∧
      (heldBytes (loadHeld waiting)).getD 1 0#8 = 0x22#8 ∧ ready.rxb = [] := by decide

theorem witness_SqXformResult :
    xform xformState.params.idOvf xformState.hf.id xformState.hf.ext = (0x00E#29, true) ∧
      xform .reject 0x7FA#29 false = (0x804#29, false) := by decide

theorem witness_SqTxResult :
    txState.buson = true ∧ frameWF (heldFrame txState.hf) = true ∧ fresh.buson = false ∧
      frameWF (heldFrame { loadHeld waiting with id := 0x800#29 }) = false := by decide

theorem witness_SqHaltResult : haltState.seq = .halted := by decide

/-- The last identifier without and the first with overflow, in both widths. -/
theorem witness_TransformAddsTen :
    (0x7F5#29).toNat < 2 ^ widthOf false ∧ (0x7F5#29).toNat + 10 < 2 ^ widthOf false ∧
      (0x7F6#29).toNat < 2 ^ widthOf false ∧ 2 ^ widthOf false ≤ (0x7F6#29).toNat + 10 ∧
      (0x1FFFFFF5#29).toNat + 10 < 2 ^ widthOf true ∧ 2 ^ widthOf true ≤ (0x1FFFFFF6#29).toNat + 10 ∧
      (xform .reject 0x7F5#29 false).2 = true := by decide

theorem witness_StepRunsTheFetchedInstruction :
    (∃ t, fetched (withStep ready okDraws) = .ok .sqPoll ∧ exec .sqPoll (withStep ready okDraws) = .next t) ∧
    (fetched (withStep { ready with seq := .relayFetch } okDraws) = .ok .sqFetch ∧
      exec .sqFetch (withStep { ready with seq := .relayFetch } okDraws) = .refused .receiveEmpty) ∧
    fetched { ready with script := [.event [0x82#8] okDraws] } = .error (.reservedEvent 0x82#8) ∧
    (withStep ready okDraws).script = .seqStep okDraws :: [] ∧
    ({ ready with script := [resetLine okDraws] } : State).script = .event [0x80#8] okDraws :: [] ∧
    (State.withFetchWord ready 16 0x0106).script = .command [0x06#8, 0x01#8] okDraws :: [] ∧ ready.script = [] :=
  ⟨⟨_, rfl, rfl⟩, ⟨rfl, rfl⟩, rfl, rfl, rfl, rfl, rfl⟩

/-- Every state of the sequencer takes a next step; an event and a command leave `SEQ`. -/
theorem witness_SequencerArcs :
    (∃ t, exec (microOp .booting) (withStep fresh faultDraws) = .next t) ∧
    (∃ t, exec (microOp .filterConfig) (withStep configState okDraws) = .next t) ∧
    (∃ t, exec (microOp .startupTx) (withStep startupState okDraws) = .next t) ∧
    (∃ t, exec (microOp .relayPoll) (withStep pollState okDraws) = .next t) ∧
    (∃ t, exec (microOp .relayFetch) (withStep fetchState okDraws) = .next t) ∧
    (∃ t, exec (microOp .relayXform) (withStep xformState okDraws) = .next t) ∧
    (∃ t, exec (microOp .relayTx) (withStep txState okDraws) = .next t) ∧
    (∃ t, exec (microOp .halted) (withStep haltState okDraws) = .next t) ∧
    (∀ q, Instr.rxOffer waiting ≠ microOp q) ∧ (∃ t, exec (.rxOffer waiting) ready = .next t) ∧
    (∃ t, exec .reset ready = .next t) :=
  ⟨⟨_, rfl⟩, ⟨_, rfl⟩, ⟨_, rfl⟩, ⟨_, rfl⟩, ⟨_, rfl⟩, ⟨_, rfl⟩, ⟨_, rfl⟩, ⟨_, rfl⟩, by intro q; cases q <;> decide,
    ⟨_, rfl⟩, ⟨_, rfl⟩⟩

theorem witness_OnlyBootWritesTheIndicator : ∃ t, exec .sqTx (withStep txState okDraws) = .next t := ⟨_, rfl⟩

/-- The flag is set by a faulted transmit, and a set flag meets an instruction that is not `RESET`. -/
theorem witness_TransmitFaultFlagIsSticky :
    (∃ t, exec .sqTx (withStep txState faultDraws) = .next t ∧ txState.txf = false ∧ t.txf = true) ∧
    (∃ t, exec .sqPoll { ready with txf := true } = .next t ∧ Instr.sqPoll ≠ .reset) :=
  ⟨⟨_, rfl, rfl, rfl⟩, ⟨_, rfl, by decide⟩⟩

theorem witness_OnlyTheirOperationsWriteBusAndFilterRegisters :
    ∃ t, exec .sqTx (withStep txState okDraws) = .next t ∧ Instr.sqTx ≠ .reset ∧ (∀ n, Instr.sqTx ≠ .initBus n) ∧
      Instr.sqTx ≠ .sqInit ∧ (∀ tb, Instr.sqTx ≠ .configureFilters tb) ∧ Instr.sqTx ≠ .sqCfg :=
  ⟨_, rfl, by simp, by simp, by simp, by simp, by simp⟩

theorem witness_OnlyTheRelayWritesTheHeldFrame :
    (∃ t, exec .receiveFrame (withStep fetchState okDraws) = .next t) ∧
    (∃ t, exec .sqXform (withStep xformState okDraws) = .next t) := ⟨⟨_, rfl⟩, ⟨_, rfl⟩⟩

theorem witness_OnlyOffersAndFetchesChangeTheBuffer : ∃ t, exec .sqPoll pollState = .next t ∧ t.rxb = [waiting] :=
  ⟨_, rfl, rfl⟩

theorem witness_HistoriesOnlyGrow : ∃ t, exec .reset ready = .next t := ⟨_, rfl⟩

theorem witness_TransmitHistoryFollowsTheTrace :
    (∃ t, exec .sqTx (withStep txState okDraws) = .next t) ∧ txState.txout = transmitted txState.trace :=
  ⟨⟨_, rfl⟩, by decide⟩

theorem witness_DrawsNotTakenAreNotRead :
    (withStep xformState okDraws).script = .seqStep okDraws :: [] ∧ drawsTaken .sqXform xformState okDraws = [] ∧
      drawsTaken .sqFetch fetchState faultDraws = [.oRx, .oRxKeep] ∧
      (∀ n ∈ drawsTaken .sqFetch fetchState faultDraws, sameAnswer faultDraws { faultDraws with oTx := .ok } n) := by
  refine ⟨rfl, rfl, rfl, ?_⟩
  intro n hn
  have : n = .oRx ∨ n = .oRxKeep := by simpa [drawsTaken, rxDraws, faultDraws] using hn
  rcases this with rfl | rfl <;> rfl

theorem witness_OfferAndTransmitCommute :
    (∃ t, exec .sqTx (withStep txState okDraws) = .next t) ∧
    (∃ u, exec (.rxOffer waiting) (withStep txState okDraws) = .next u) := ⟨⟨_, rfl⟩, ⟨_, rfl⟩⟩

theorem witness_OnlyResetLeavesHalted :
    (∃ t, step (withStep haltState okDraws) = .next t) ∧ haltState.seq = .halted ∧
    (∃ t, step { haltState with script := [resetLine okDraws] } = .next t) ∧
    fetched { haltState with script := [resetLine okDraws] } = .ok .reset := ⟨⟨_, rfl⟩, rfl, ⟨_, rfl⟩, rfl⟩

theorem witness_InvariantsHoldAfterReset : Params.wf Config.vectorParams = true := by decide

/-- The invariants, of a relay state with a waiting frame and four lines to come. -/
theorem inv_pollState : Inv { pollState with script := relayOk } where
  configured := by decide
  bus_off := by decide
  bus_on := by decide
  held := by decide
  buffer_wf := by decide
  held_wf := by decide
  buffer_cap := by decide
  fetch_ready := by decide
  buffer_accepted := by decide
  installed := fun _ => ⟨by decide, rfl⟩
  indicator := by decide
  params_ok := by decide
  rom_ok := by decide
  rom_table := ⟨Config.table, rfl⟩
  environment := by decide

/-- The invariants, of a state that holds a fetched frame, with an offer and a reset to come. -/
theorem inv_xformState : Inv { xformState with script := [offerLine waiting okDraws, resetLine okDraws] } where
  configured := by decide
  bus_off := by decide
  bus_on := by decide
  held := by decide
  buffer_wf := by decide
  held_wf := by decide
  buffer_cap := by decide
  fetch_ready := by decide
  buffer_accepted := by decide
  installed := fun _ => ⟨by decide, rfl⟩
  indicator := by decide
  params_ok := by decide
  rom_ok := by decide
  rom_table := ⟨Config.table, rfl⟩
  environment := by decide

theorem witness_EveryStepKeepsTheInvariants :
    Inv { pollState with script := relayOk } ∧ (∃ t, step { pollState with script := relayOk } = .next t) :=
  ⟨inv_pollState, _, rfl⟩

theorem witness_InvariantStatesNeverRefuse :
    Inv { xformState with script := [offerLine waiting okDraws, resetLine okDraws] } ∧
      fetched { xformState with script := [offerLine waiting okDraws, resetLine okDraws] } = .ok (.rxOffer waiting) :=
  ⟨inv_xformState, rfl⟩

theorem witness_InstalledTableIsConstant :
    let s := { pollState with script := relayOk }
    Inv s ∧ s.cfgd = true ∧ (∃ t, step s = .next t) ∧ fetched s = .ok .sqPoll := ⟨inv_pollState, rfl, ⟨_, rfl⟩, rfl⟩

/-- The histories of Ready are those of a run by the rules. -/
theorem history_pollState : HistoryInv { pollState with script := relayOk } where
  calls := by
    have h : readTable pollState.rom = .next Config.table := rfl
    show tracePhase _ (readTable pollState.rom) _ = _
    rw [h]
    decide
  levels := by decide
  sent := by decide

theorem witness_EveryStepKeepsTheCallOrder :
    let s := { pollState with script := relayOk }
    Inv s ∧ HistoryInv s ∧ ∃ t, step s = .next t := ⟨inv_pollState, history_pollState, _, rfl⟩

theorem witness_ReadySignatureShowsTheRelay :
    let s := { pollState with script := relayOk }
    Inv s ∧ HistoryInv s ∧ s.diag = true ∧ relaying s.seq = true := ⟨inv_pollState, history_pollState, rfl, rfl⟩

theorem witness_BootReachesTheRelay :
    let s := { fresh with script := bootOk }
    s.seq = .booting ∧ s.script = .seqStep okDraws :: .seqStep okDraws :: .seqStep okDraws :: [] ∧ okDraws.oInit = .ok ∧
      okDraws.oCfg = .ok ∧ okDraws.oTx = .ok ∧ readTable s.rom = .next Config.table ∧ tableWF Config.table = true :=
  ⟨rfl, rfl, rfl, rfl, rfl, rfl, by decide⟩

theorem witness_RelayTransmitsTheFetchedFrame :
    let s := { pollState with script := relayOk }
    Inv s ∧ s.seq = .relayPoll ∧ s.rxb = waiting :: [] ∧
      s.script = .seqStep okDraws :: .seqStep okDraws :: .seqStep okDraws :: .seqStep okDraws :: [] ∧
      okDraws.oRx = .ok ∧ okDraws.oTx = .ok ∧
      relayFrame s.params.idOvf waiting = some (std 0x00E#29 [0x11#8, 0x22#8]) :=
  ⟨inv_pollState, rfl, rfl, rfl, rfl, rfl, by decide⟩

theorem witness_FailedFetchTransmitsNothing :
    let s := { fetchState with script := [.seqStep consumeDraws, .seqStep okDraws] }
    s.seq = .relayFetch ∧ s.rxb = waiting :: [] ∧ s.script = .seqStep consumeDraws :: .seqStep okDraws :: [] ∧
      consumeDraws.oRx = .fault ∧ faultDraws.oRx = .fault ∧ faultDraws.oRxKeep = .keep := by decide

theorem witness_IllFormedTableNeverBoots :
    let s := withStep { configState with rom := romOfTable tableMixedGroup } okDraws
    s.seq = .filterConfig ∧ s.buson = true ∧ s.script = .seqStep okDraws :: [] ∧
      readTable s.rom = .next tableMixedGroup ∧ tableWF tableMixedGroup = false :=
  ⟨rfl, rfl, rfl, rfl, by decide⟩

end Sys2Proof.Machine.Tests
end

/-! # The step and the schedule (00_scope R13, 42_relay_sequencer R140, 30_encoding R81) -/

namespace Sys2Proof.Machine

theorem line_of_script_cons {s : State} {l : ScheduleLine} {rest : List ScheduleLine} (h : s.script = l :: rest) :
    s.line = l := by
  simp [State.line, h]

theorem line_of_script_nil {s : State} (h : s.script = []) : s.line = .seqStep (Config.freeDraws s.freeIx) := by
  simp [State.line, h]

theorem draws_of_script_cons {s : State} {l : ScheduleLine} {rest : List ScheduleLine} (h : s.script = l :: rest) :
    s.draws = lineDraws l := by
  rw [State.draws, line_of_script_cons h]

theorem step_of_fetched_ok {s : State} {i : Instr} (h : fetched s = .ok i) :
    step s = bindResult (exec i s) fun t => .next (advance t) := by
  simp [step, h]

theorem step_of_fetched_error {s : State} {e : DecodeError} (h : fetched s = .error e) :
    step s = .refused (.invalidWord e) := by
  simp [step, h]

/-- Settles O37: the first two clauses are the two outcomes of the fetch, the other four the kinds of line. -/
theorem stepRunsTheFetchedInstruction : Obligations.StepRunsTheFetchedInstruction := by
  refine ⟨fun s i hi => ⟨fun t ht => ?_, fun e he => ?_⟩, fun s e he => step_of_fetched_error he,
    fun s d rest h => ?_, fun s bytes d rest h => ?_, fun s bytes d rest h => ?_, fun s h => ?_⟩
  · rw [step_of_fetched_ok hi, ht, bindResult_next, advance]
  · rw [step_of_fetched_ok hi, he, bindResult_refused]
  · exact ⟨fetched_of_seqStep (line_of_script_cons h), draws_of_script_cons h⟩
  · exact ⟨fetched_of_event (line_of_script_cons h), draws_of_script_cons h⟩
  · exact ⟨fetched_of_command (line_of_script_cons h), draws_of_script_cons h⟩
  · exact fetched_of_seqStep (line_of_script_nil h)

end Sys2Proof.Machine

/-! # What an instruction does to the histories (00_scope R14) -/

namespace Sys2Proof.Machine

theorem transmitted_append (tr es : List TraceEntry) : transmitted (tr ++ es) = transmitted tr ++ transmitted es := by
  simp [transmitted]

/-- From `s` to `t` each history was only appended to, and `TXOUT` gained exactly the transmissions of the entries that
`TRACE` gained. -/
def Records (s t : State) : Prop :=
  ∃ es ds, t.trace = s.trace ++ es ∧ t.txout = s.txout ++ transmitted es ∧ t.diaglog = s.diaglog ++ ds

theorem Records.trans {s t u : State} (hst : Records s t) (htu : Records t u) : Records s u := by
  obtain ⟨es, ds, htr, htx, hdl⟩ := hst
  obtain ⟨es', ds', htr', htx', hdl'⟩ := htu
  exact ⟨es ++ es', ds ++ ds', by simp [htr', htr], by simp [htx', htx, transmitted_append], by simp [hdl', hdl]⟩

/-- A change that makes no call and writes the levels `ds` to the indicator. -/
theorem Records.of_levels {s t : State} (ds : List DiagEntry) (htr : t.trace = s.trace) (htx : t.txout = s.txout)
    (hdl : t.diaglog = s.diaglog ++ ds) : Records s t :=
  ⟨[], ds, by simp [htr], by simp [htx, transmitted], hdl⟩

theorem Records.of_unchanged {s t : State} (htr : t.trace = s.trace) (htx : t.txout = s.txout)
    (hdl : t.diaglog = s.diaglog) : Records s t :=
  .of_levels [] htr htx (by simp [hdl])

/-- A call that records the entry `e` and hands over what `e` says. -/
theorem Records.of_call {s t : State} (e : TraceEntry) (htr : t.trace = s.trace ++ [e])
    (htx : t.txout = s.txout ++ transmitted [e]) (hdl : t.diaglog = s.diaglog) : Records s t :=
  ⟨[e], [], htr, htx, by simp [hdl]⟩

/-! ### The calls -/

theorem callInitBus_records {n : Word32} {s : State} {a : Status × State} (h : callInitBus n s = .next a) :
    Records s a.2 := by
  obtain ⟨-, rfl⟩ | ⟨-, rfl⟩ := callInitBus_eq_next.1 h
  all_goals exact .of_call (.initBus n _) rfl (by simp [transmitted]) rfl

theorem callConfigureFilters_records {tb : Table} {s : State} {a : Status × State}
    (h : callConfigureFilters tb s = .next a) : Records s a.2 := by
  obtain ⟨-, ⟨-, rfl⟩ | ⟨-, -, rfl⟩ | ⟨-, -, rfl⟩⟩ := callConfigureFilters_eq_next.1 h
  all_goals exact .of_call (.configureFilters tb _) rfl (by simp [transmitted]) rfl

theorem callFrameAvailable_records {s : State} {a : Bool × State} (h : callFrameAvailable s = .next a) :
    Records s a.2 := by
  obtain ⟨-, rfl⟩ | ⟨-, rfl⟩ := callFrameAvailable_eq_next.1 h
  all_goals exact .of_call (.frameAvailable _) rfl (by simp [transmitted]) rfl

theorem callReceiveFrame_records {s : State} {a : FetchResponse × State} (h : callReceiveFrame s = .next a) :
    Records s a.2 := by
  obtain ⟨fr, rest, -, ⟨-, rfl⟩ | ⟨-, -, rfl⟩ | ⟨-, -, rfl⟩⟩ := callReceiveFrame_eq_next.1 h
  all_goals exact .of_call (.receiveFrame _) rfl (by simp [transmitted]) rfl

/-- The one call that writes `TXOUT`, and it does so exactly with the entry `OK` (41_interface_ops R124). -/
theorem callTransmitFrame_records {fr : Frame} {s : State} {a : Status × State}
    (h : callTransmitFrame fr s = .next a) : Records s a.2 := by
  obtain ⟨-, -, ⟨-, rfl⟩ | ⟨-, rfl⟩⟩ := callTransmitFrame_eq_next.1 h
  · exact .of_call (.transmitFrame fr .ok) rfl rfl rfl
  · exact .of_call (.transmitFrame fr (.fault .fcTx)) rfl (by simp [transmitted]) rfl

theorem dropResponse_records {α : Type} {r : Result (α × State)} {s t : State}
    (hr : ∀ {a}, r = .next a → Records s a.2) (h : dropResponse r = .next t) : Records s t := by
  obtain ⟨a, ha⟩ := dropResponse_eq_next.1 h
  exact hr ha

/-! ### The instructions -/

theorem resetState_records (s : State) : Records s (resetState s) := ⟨[.reset], [.reset], rfl, rfl, rfl⟩

theorem offerFrame_records {fr : Frame} {s t : State} (h : offerFrame fr s = .next t) : Records s t := by
  obtain ⟨-, ⟨-, rfl⟩ | ⟨-, rfl⟩⟩ := offerFrame_eq_next.1 h
  all_goals exact .of_unchanged rfl rfl rfl

theorem writeDiag_records (b : Bool) (s : State) : Records s (writeDiag b s) := .of_levels [.level b] rfl rfl rfl

theorem cfgReact_records (s : State) : Records s (cfgReact s) := .of_unchanged (by simp) (by simp) (by simp)

theorem execSqInit_records {s t : State} (h : execSqInit s = .next t) : Records s t := by
  obtain ⟨⟨r, u⟩, hcall, hrest⟩ := bindResult_eq_next.1 h
  refine (callInitBus_records hcall).trans ?_
  cases r with
  | ok => cases hrest; exact (writeDiag_records _ u).trans (.of_unchanged rfl rfl rfl)
  | fault c => cases hrest; exact cfgReact_records u

theorem execSqCfg_records {s t : State} (h : execSqCfg s = .next t) : Records s t := by
  obtain ⟨tb, -, htb⟩ := bindResult_eq_next.1 h
  obtain ⟨⟨r, u⟩, hcall, hrest⟩ := bindResult_eq_next.1 htb
  refine (callConfigureFilters_records hcall).trans ?_
  cases r with
  | ok => cases hrest; exact (writeDiag_records _ u).trans (.of_unchanged rfl rfl rfl)
  | fault c => cases hrest; exact cfgReact_records u

theorem txReact_releaseHeld_records (r : Status) (s : State) : Records s (releaseHeld (txReact r s)) :=
  .of_unchanged (by simp) (by simp) (by simp)

theorem execSqStx_records {s t : State} (h : execSqStx s = .next t) : Records s t := by
  obtain ⟨⟨r, u⟩, hcall, hrest⟩ := bindResult_eq_next.1 h
  have hload : Records s { s with hf := loadHeld Config.diagFrame } := .of_unchanged rfl rfl rfl
  cases hrest
  exact ((hload.trans (callTransmitFrame_records hcall)).trans (txReact_releaseHeld_records r u)).trans
    ((writeDiag_records _ _).trans (.of_unchanged rfl rfl rfl))

theorem execSqPoll_records {s t : State} (h : execSqPoll s = .next t) : Records s t := by
  obtain ⟨a, hcall, hrest⟩ := bindResult_eq_next.1 h
  cases hrest
  exact (callFrameAvailable_records hcall).trans (.of_unchanged rfl rfl rfl)

theorem execSqFetch_records {s t : State} (h : execSqFetch s = .next t) : Records s t := by
  obtain ⟨⟨r, u⟩, hcall, hrest⟩ := bindResult_eq_next.1 h
  refine (callReceiveFrame_records hcall).trans ?_
  cases r <;> (cases hrest; exact .of_unchanged rfl rfl rfl)

/-- The two outcomes of `SQ_XFORM`: the frame kept with its new identifier, or dropped (42_relay_sequencer R146). -/
theorem execSqXform_eq_ite (s : State) :
    execSqXform s =
      if (xform s.params.idOvf s.hf.id s.hf.ext).2 then
        .next { s with hf := { s.hf with id := (xform s.params.idOvf s.hf.id s.hf.ext).1 }, seq := .relayTx }
      else .next { s with hfv := false, seq := .relayPoll } := rfl

theorem execSqXform_records {s t : State} (h : execSqXform s = .next t) : Records s t := by
  rw [execSqXform_eq_ite] at h
  split at h <;> (cases h; exact .of_unchanged rfl rfl rfl)

theorem execSqTx_records {s t : State} (h : execSqTx s = .next t) : Records s t := by
  obtain ⟨⟨r, u⟩, hcall, hrest⟩ := bindResult_eq_next.1 h
  cases hrest
  exact (callTransmitFrame_records hcall).trans
    ((txReact_releaseHeld_records r u).trans (.of_unchanged rfl rfl rfl))

theorem exec_records {i : Instr} {s t : State} (h : exec i s = .next t) : Records s t := by
  cases i with
  | initBus n => exact dropResponse_records callInitBus_records h
  | configureFilters tb => exact dropResponse_records callConfigureFilters_records h
  | frameAvailable => exact dropResponse_records callFrameAvailable_records h
  | receiveFrame => exact dropResponse_records callReceiveFrame_records h
  | transmitFrame fr => exact dropResponse_records callTransmitFrame_records h
  | diagSet b => cases h; exact writeDiag_records b s
  | diagToggle => cases h; exact writeDiag_records _ s
  | reset => cases h; exact resetState_records s
  | rxOffer fr => exact offerFrame_records h
  | sqInit => exact execSqInit_records h
  | sqCfg => exact execSqCfg_records h
  | sqStx => exact execSqStx_records h
  | sqPoll => exact execSqPoll_records h
  | sqFetch => exact execSqFetch_records h
  | sqXform => exact execSqXform_records h
  | sqTx => exact execSqTx_records h
  | sqHalt => cases h; exact .of_unchanged rfl rfl rfl

/-- Settles O45: what an instruction does to a history is to append. -/
theorem historiesOnlyGrow : Obligations.HistoriesOnlyGrow := by
  intro i s t h
  obtain ⟨es, ds, htr, htx, hdl⟩ := exec_records h
  exact ⟨⟨es, htr.symm⟩, ⟨transmitted es, htx.symm⟩, ⟨ds, hdl.symm⟩⟩

/-- Settles O46: `TXOUT` gains the transmissions of exactly the entries that `TRACE` gains. -/
theorem transmitHistoryFollowsTheTrace : Obligations.TransmitHistoryFollowsTheTrace := by
  intro i s t h hs
  obtain ⟨es, ds, htr, htx, -⟩ := exec_records h
  rw [htx, htr, hs, transmitted_append]

end Sys2Proof.Machine

/-! # Another schedule with the same answers to the draws taken (00_scope R13) -/

namespace Sys2Proof.Machine

/-- The same state with another schedule. -/
def reschedule (sc : List ScheduleLine) (s : State) : State := { s with script := sc }

@[simp] theorem reschedule_buson (sc : List ScheduleLine) (s : State) : (reschedule sc s).buson = s.buson := rfl
@[simp] theorem reschedule_cfgd (sc : List ScheduleLine) (s : State) : (reschedule sc s).cfgd = s.cfgd := rfl
@[simp] theorem reschedule_filters (sc : List ScheduleLine) (s : State) : (reschedule sc s).filters = s.filters := rfl
@[simp] theorem reschedule_rxb (sc : List ScheduleLine) (s : State) : (reschedule sc s).rxb = s.rxb := rfl
@[simp] theorem reschedule_hf (sc : List ScheduleLine) (s : State) : (reschedule sc s).hf = s.hf := rfl
@[simp] theorem reschedule_params (sc : List ScheduleLine) (s : State) : (reschedule sc s).params = s.params := rfl
@[simp] theorem reschedule_rom (sc : List ScheduleLine) (s : State) : (reschedule sc s).rom = s.rom := rfl

/-- A call's outcome with another schedule in the state it goes on with. -/
def rescheduleCall {α : Type} (sc : List ScheduleLine) (r : Result (α × State)) : Result (α × State) :=
  bindResult r fun a => .next (a.1, reschedule sc a.2)

/-- An instruction's outcome with another schedule in the next state. -/
def rescheduleResult (sc : List ScheduleLine) (r : Result State) : Result State :=
  bindResult r fun t => .next (reschedule sc t)

/-- Where neither the call nor what follows it reads the new schedule otherwise, their sequence does not. -/
theorem bindResult_reschedule {α : Type} {sc : List ScheduleLine} {r r' : Result (α × State)}
    {f : α × State → Result State} (hr : r' = rescheduleCall sc r)
    (hf : ∀ a u, f (a, reschedule sc u) = rescheduleResult sc (f (a, u))) :
    bindResult r' f = rescheduleResult sc (bindResult r f) := by
  subst hr
  cases r with
  | next a => exact hf a.1 a.2
  | fault e => rfl
  | refused e => rfl

theorem dropResponse_reschedule {α : Type} {sc : List ScheduleLine} {r r' : Result (α × State)}
    (hr : r' = rescheduleCall sc r) : dropResponse r' = rescheduleResult sc (dropResponse r) :=
  bindResult_reschedule hr fun _ _ => rfl

theorem cfgReact_reschedule (sc : List ScheduleLine) (s : State) :
    cfgReact (reschedule sc s) = reschedule sc (cfgReact s) := by
  unfold cfgReact reschedule
  cases s.params.cfgFault <;> rfl

theorem txReact_reschedule (sc : List ScheduleLine) (r : Status) (s : State) :
    txReact r (reschedule sc s) = reschedule sc (txReact r s) := by
  cases r <;> rfl

/-- The schedule `sc` answers the draws `ns` as the schedule of `s` does. -/
def AnswersAgree (sc : List ScheduleLine) (s : State) (ns : List DrawName) : Prop :=
  ∀ n ∈ ns, sameAnswer s.draws (reschedule sc s).draws n

/-! ### The calls -/

theorem callInitBus_reschedule {sc : List ScheduleLine} {s : State} (n : Word32)
    (h : AnswersAgree sc s [.oInit]) :
    callInitBus n (reschedule sc s) = rescheduleCall sc (callInitBus n s) := by
  have hInit : s.draws.oInit = (reschedule sc s).draws.oInit := h .oInit (by simp)
  unfold callInitBus
  rw [← hInit]
  cases s.draws.oInit <;> rfl

theorem callConfigureFilters_reschedule {sc : List ScheduleLine} {s : State} {t : Table}
    (h : AnswersAgree sc s (cfgDraws (.next t))) :
    callConfigureFilters t (reschedule sc s) = rescheduleCall sc (callConfigureFilters t s) := by
  unfold callConfigureFilters
  rw [reschedule_buson]
  cases s.buson with
  | false => rfl
  | true =>
    cases hwf : tableWF t with
    | false => rfl
    | true =>
      have hCfg : s.draws.oCfg = (reschedule sc s).draws.oCfg := h .oCfg (by simp [cfgDraws, hwf])
      rw [← hCfg]
      cases s.draws.oCfg <;> rfl

theorem callFrameAvailable_reschedule (sc : List ScheduleLine) (s : State) :
    callFrameAvailable (reschedule sc s) = rescheduleCall sc (callFrameAvailable s) := rfl

theorem callReceiveFrame_reschedule {sc : List ScheduleLine} {s : State} (h : AnswersAgree sc s (rxDraws s.draws)) :
    callReceiveFrame (reschedule sc s) = rescheduleCall sc (callReceiveFrame s) := by
  have hRx : s.draws.oRx = (reschedule sc s).draws.oRx := h .oRx (by unfold rxDraws; split <;> simp)
  unfold callReceiveFrame
  rw [reschedule_rxb, ← hRx]
  cases s.rxb with
  | nil => rfl
  | cons fr rest =>
    cases hans : s.draws.oRx with
    | ok => rfl
    | fault =>
      have hKeep : s.draws.oRxKeep = (reschedule sc s).draws.oRxKeep := h .oRxKeep (by simp [rxDraws, hans])
      rw [← hKeep]
      cases s.draws.oRxKeep <;> rfl

theorem callTransmitFrame_reschedule {sc : List ScheduleLine} {s : State} (fr : Frame)
    (h : AnswersAgree sc s [.oTx]) :
    callTransmitFrame fr (reschedule sc s) = rescheduleCall sc (callTransmitFrame fr s) := by
  have hTx : s.draws.oTx = (reschedule sc s).draws.oTx := h .oTx (by simp)
  unfold callTransmitFrame
  rw [reschedule_buson, ← hTx]
  cases s.buson <;> cases frameWF fr <;> cases s.draws.oTx <;> rfl

/-! ### The offer -/

theorem offerStored_reschedule {sc : List ScheduleLine} {s : State} (fr : Frame) (h : AnswersAgree sc s (preDraws s)) :
    offerStored (reschedule sc s) fr = offerStored s fr := by
  cases hbus : s.buson with
  | false => simp [offerStored, hbus]
  | true =>
    cases hcfgd : s.cfgd with
    | true => simp [offerStored, hbus, hcfgd]
    | false =>
      cases hpolicy : s.params.precfg with
      | rejectAll => simp [offerStored, hbus, hcfgd, hpolicy]
      | draw =>
        have hPre : s.draws.oPre = (reschedule sc s).draws.oPre :=
          h .oPre (by simp [preDraws, hbus, hcfgd, hpolicy])
        simp [offerStored, hbus, hcfgd, hpolicy, hPre]

theorem offerFrame_reschedule {sc : List ScheduleLine} {s : State} (fr : Frame) (h : AnswersAgree sc s (preDraws s)) :
    offerFrame fr (reschedule sc s) = rescheduleResult sc (offerFrame fr s) := by
  unfold offerFrame
  rw [offerStored_reschedule fr h]
  cases frameWF fr <;> cases offerStored s fr <;> rfl

/-! ### The micro-operations -/

theorem execSqInit_reschedule {sc : List ScheduleLine} {s : State} (h : AnswersAgree sc s [.oInit]) :
    execSqInit (reschedule sc s) = rescheduleResult sc (execSqInit s) := by
  refine bindResult_reschedule (callInitBus_reschedule Config.bitRate h) fun r u => ?_
  cases r with
  | ok => rfl
  | fault c => exact congrArg Host.Outcome.next (cfgReact_reschedule sc u)

theorem execSqCfg_reschedule {sc : List ScheduleLine} {s : State}
    (h : AnswersAgree sc s (cfgDraws (readTable s.rom))) :
    execSqCfg (reschedule sc s) = rescheduleResult sc (execSqCfg s) := by
  unfold execSqCfg
  rw [reschedule_rom]
  cases hread : readTable s.rom with
  | fault e => rfl
  | refused e => rfl
  | next t =>
    rw [hread] at h
    refine bindResult_reschedule (callConfigureFilters_reschedule h) fun r u => ?_
    cases r with
    | ok => rfl
    | fault c => exact congrArg Host.Outcome.next (cfgReact_reschedule sc u)

theorem releaseHeld_txReact_reschedule (sc : List ScheduleLine) (r : Status) (s : State) :
    releaseHeld (txReact r (reschedule sc s)) = reschedule sc (releaseHeld (txReact r s)) := by
  rw [txReact_reschedule]
  rfl

theorem execSqStx_reschedule {sc : List ScheduleLine} {s : State} (h : AnswersAgree sc s [.oTx]) :
    execSqStx (reschedule sc s) = rescheduleResult sc (execSqStx s) := by
  have hcall := callTransmitFrame_reschedule (s := { s with hf := loadHeld Config.diagFrame })
    (heldFrame (loadHeld Config.diagFrame)) h
  refine bindResult_reschedule hcall fun r u => ?_
  rw [releaseHeld_txReact_reschedule]
  rfl

theorem execSqPoll_reschedule (sc : List ScheduleLine) (s : State) :
    execSqPoll (reschedule sc s) = rescheduleResult sc (execSqPoll s) :=
  bindResult_reschedule (callFrameAvailable_reschedule sc s) fun _ _ => rfl

theorem execSqFetch_reschedule {sc : List ScheduleLine} {s : State} (h : AnswersAgree sc s (rxDraws s.draws)) :
    execSqFetch (reschedule sc s) = rescheduleResult sc (execSqFetch s) := by
  refine bindResult_reschedule (callReceiveFrame_reschedule h) fun r u => ?_
  cases r <;> rfl

theorem execSqXform_reschedule (sc : List ScheduleLine) (s : State) :
    execSqXform (reschedule sc s) = rescheduleResult sc (execSqXform s) := by
  rw [execSqXform_eq_ite, execSqXform_eq_ite, reschedule_params, reschedule_hf]
  cases (xform s.params.idOvf s.hf.id s.hf.ext).2 <;> rfl

theorem execSqTx_reschedule {sc : List ScheduleLine} {s : State} (h : AnswersAgree sc s [.oTx]) :
    execSqTx (reschedule sc s) = rescheduleResult sc (execSqTx s) := by
  refine bindResult_reschedule (callTransmitFrame_reschedule (heldFrame s.hf) h) fun r u => ?_
  rw [releaseHeld_txReact_reschedule]
  rfl

/-- With another schedule that answers the draws taken alike, an instruction does the same and keeps that schedule. -/
theorem exec_reschedule {sc : List ScheduleLine} {s : State} (i : Instr)
    (h : AnswersAgree sc s (drawsTaken i s s.draws)) :
    exec i (reschedule sc s) = rescheduleResult sc (exec i s) := by
  cases i with
  | initBus n => exact dropResponse_reschedule (callInitBus_reschedule n h)
  | configureFilters t => exact dropResponse_reschedule (callConfigureFilters_reschedule h)
  | frameAvailable => exact dropResponse_reschedule (callFrameAvailable_reschedule sc s)
  | receiveFrame => exact dropResponse_reschedule (callReceiveFrame_reschedule h)
  | transmitFrame fr => exact dropResponse_reschedule (callTransmitFrame_reschedule fr h)
  | diagSet b => rfl
  | diagToggle => rfl
  | reset => rfl
  | rxOffer fr => exact offerFrame_reschedule fr h
  | sqInit => exact execSqInit_reschedule h
  | sqCfg => exact execSqCfg_reschedule h
  | sqStx => exact execSqStx_reschedule h
  | sqPoll => exact execSqPoll_reschedule sc s
  | sqFetch => exact execSqFetch_reschedule h
  | sqXform => exact execSqXform_reschedule sc s
  | sqTx => exact execSqTx_reschedule h
  | sqHalt => rfl

/-- Settles O47: with `l'` for `l` the schedule still agrees on every draw that the instruction takes. -/
theorem drawsNotTakenAreNotRead : Obligations.DrawsNotTakenAreNotRead := by
  intro i s l l' rest hscript hsame
  rw [← draws_of_script_cons hscript] at hsame
  exact exec_reschedule i hsame

end Sys2Proof.Machine

/-! # The registers that an instruction may write (10_state R21 to R37) -/

namespace Sys2Proof.Machine

/-- The fields of the state in the groups in which the rules name their writers; `wired` is what no instruction writes
(the parameters, the ROM, the schedule, the step counter). The histories `TRACE` and `TXOUT` are in no group. -/
inductive Register where
  | bus | filter | buffer | seq | held | txFault | indicator | wired

/-- The register holds in `t` what it holds in `s`. -/
def Register.Same (r : Register) (s t : State) : Prop :=
  match r with
  | .bus => t.buson = s.buson ∧ t.bitrate = s.bitrate
  | .filter => t.cfgd = s.cfgd ∧ t.filters = s.filters
  | .buffer => t.rxb = s.rxb
  | .seq => t.seq = s.seq
  | .held => t.hf = s.hf ∧ t.hfv = s.hfv
  | .txFault => t.txf = s.txf
  | .indicator => t.diag = s.diag ∧ t.diaglog = s.diaglog
  | .wired => t.params = s.params ∧ t.rom = s.rom ∧ t.script = s.script ∧ t.freeIx = s.freeIx

theorem Register.Same.trans {r : Register} {s t u : State} (hst : r.Same s t) (htu : r.Same t u) : r.Same s u := by
  cases r <;> simp_all [Register.Same]

/-- Every register is one of `ws` or is left as it was. -/
def Keeps (ws : List Register) (s t : State) : Prop := ∀ r, r ∈ ws ∨ r.Same s t

theorem Keeps.same {ws : List Register} {s t : State} (h : Keeps ws s t) (r : Register) (hr : r ∉ ws) : r.Same s t :=
  (h r).resolve_left hr

theorem Keeps.trans {ws ws' : List Register} {s t u : State} (hst : Keeps ws s t) (htu : Keeps ws' t u) :
    Keeps (ws ++ ws') s u := fun r => by
  obtain hr | hst := hst r
  · exact .inl (List.mem_append_left _ hr)
  · obtain hr | htu := htu r
    · exact .inl (List.mem_append_right _ hr)
    · exact .inr (hst.trans htu)

theorem Keeps.mono {ws ws' : List Register} {s t : State} (h : Keeps ws s t) (hsub : ws ⊆ ws') : Keeps ws' s t :=
  fun r => (h r).imp_left fun hr => hsub hr

/-- The registers that the rule of an instruction names as written. -/
def writeSet : Instr → List Register
  | .initBus _ => [.bus]
  | .configureFilters _ => [.filter]
  | .frameAvailable => []
  | .receiveFrame => [.buffer]
  | .transmitFrame _ => []
  | .diagSet _ => [.indicator]
  | .diagToggle => [.indicator]
  | .reset => [.bus, .filter, .buffer, .seq, .held, .txFault, .indicator]
  | .rxOffer _ => [.buffer]
  | .sqInit => [.bus, .indicator, .seq]
  | .sqCfg => [.filter, .indicator, .seq]
  | .sqStx => [.held, .txFault, .indicator, .seq]
  | .sqPoll => [.seq]
  | .sqFetch => [.buffer, .held, .seq]
  | .sqXform => [.held, .seq]
  | .sqTx => [.held, .txFault, .seq]
  | .sqHalt => [.seq]

/-! ### The calls -/

theorem callInitBus_keeps {n : Word32} {s : State} {a : Status × State} (h : callInitBus n s = .next a) :
    Keeps [.bus] s a.2 := by
  obtain ⟨-, rfl⟩ | ⟨-, rfl⟩ := callInitBus_eq_next.1 h
  all_goals exact fun r => by cases r <;> simp [Register.Same]

theorem callConfigureFilters_keeps {tb : Table} {s : State} {a : Status × State}
    (h : callConfigureFilters tb s = .next a) : Keeps [.filter] s a.2 := by
  obtain ⟨-, ⟨-, rfl⟩ | ⟨-, -, rfl⟩ | ⟨-, -, rfl⟩⟩ := callConfigureFilters_eq_next.1 h
  all_goals exact fun r => by cases r <;> simp [Register.Same]

theorem callFrameAvailable_keeps {s : State} {a : Bool × State} (h : callFrameAvailable s = .next a) :
    Keeps [] s a.2 := by
  obtain ⟨-, rfl⟩ | ⟨-, rfl⟩ := callFrameAvailable_eq_next.1 h
  all_goals exact fun r => by cases r <;> simp [Register.Same]

theorem callReceiveFrame_keeps {s : State} {a : FetchResponse × State} (h : callReceiveFrame s = .next a) :
    Keeps [.buffer] s a.2 := by
  obtain ⟨fr, rest, -, ⟨-, rfl⟩ | ⟨-, -, rfl⟩ | ⟨-, -, rfl⟩⟩ := callReceiveFrame_eq_next.1 h
  all_goals exact fun r => by cases r <;> simp [Register.Same]

theorem callTransmitFrame_keeps {fr : Frame} {s : State} {a : Status × State}
    (h : callTransmitFrame fr s = .next a) : Keeps [] s a.2 := by
  obtain ⟨-, -, ⟨-, rfl⟩ | ⟨-, rfl⟩⟩ := callTransmitFrame_eq_next.1 h
  all_goals exact fun r => by cases r <;> simp [Register.Same]

theorem dropResponse_keeps {α : Type} {ws : List Register} {r : Result (α × State)} {s t : State}
    (hr : ∀ {a}, r = .next a → Keeps ws s a.2) (h : dropResponse r = .next t) : Keeps ws s t := by
  obtain ⟨a, ha⟩ := dropResponse_eq_next.1 h
  exact hr ha

/-! ### The instructions -/

theorem offerFrame_keeps {fr : Frame} {s t : State} (h : offerFrame fr s = .next t) : Keeps [.buffer] s t := by
  obtain ⟨-, ⟨-, rfl⟩ | ⟨-, rfl⟩⟩ := offerFrame_eq_next.1 h
  all_goals exact fun r => by cases r <;> simp [Register.Same]

theorem resetState_keeps (s : State) : Keeps (writeSet .reset) s (resetState s) := fun r => by
  cases r <;> simp [writeSet, Register.Same]

theorem writeDiag_keeps (b : Bool) (s : State) : Keeps [.indicator] s (writeDiag b s) := fun r => by
  cases r <;> simp [Register.Same]

theorem cfgReact_keeps (s : State) : Keeps [.seq] s (cfgReact s) := fun r => by
  cases r <;> simp [Register.Same]

theorem setSeq_keeps (q : SeqState) (s : State) : Keeps [.seq] s { s with seq := q } := fun r => by
  cases r <;> simp [Register.Same]

theorem setHeld_keeps (h : HeldFrame) (v : Bool) (s : State) : Keeps [.held] s { s with hf := h, hfv := v } :=
  fun r => by cases r <;> simp [Register.Same]

theorem txReact_releaseHeld_keeps (r : Status) (s : State) :
    Keeps [.held, .txFault] s (releaseHeld (txReact r s)) := fun reg => by
  cases reg <;> simp [Register.Same]

theorem execSqInit_keeps {s t : State} (h : execSqInit s = .next t) : Keeps (writeSet .sqInit) s t := by
  obtain ⟨⟨r, u⟩, hcall, hrest⟩ := bindResult_eq_next.1 h
  refine (callInitBus_keeps hcall).trans (ws' := [.indicator, .seq]) ?_
  cases r with
  | ok => cases hrest; exact (writeDiag_keeps _ u).trans (setSeq_keeps _ _)
  | fault c => cases hrest; exact (cfgReact_keeps u).mono (by simp)

theorem execSqCfg_keeps {s t : State} (h : execSqCfg s = .next t) : Keeps (writeSet .sqCfg) s t := by
  obtain ⟨tb, -, htb⟩ := bindResult_eq_next.1 h
  obtain ⟨⟨r, u⟩, hcall, hrest⟩ := bindResult_eq_next.1 htb
  refine (callConfigureFilters_keeps hcall).trans (ws' := [.indicator, .seq]) ?_
  cases r with
  | ok => cases hrest; exact (writeDiag_keeps _ u).trans (setSeq_keeps _ _)
  | fault c => cases hrest; exact (cfgReact_keeps u).mono (by simp)

theorem execSqStx_keeps {s t : State} (h : execSqStx s = .next t) : Keeps (writeSet .sqStx) s t := by
  obtain ⟨⟨r, u⟩, hcall, hrest⟩ := bindResult_eq_next.1 h
  cases hrest
  have hload : Keeps [.held] s { s with hf := loadHeld Config.diagFrame } := setHeld_keeps _ s.hfv s
  have hsent := (hload.trans (callTransmitFrame_keeps hcall)).trans (txReact_releaseHeld_keeps r u)
  exact (hsent.trans ((writeDiag_keeps _ _).trans (setSeq_keeps _ _))).mono (by simp [writeSet])

theorem execSqPoll_keeps {s t : State} (h : execSqPoll s = .next t) : Keeps (writeSet .sqPoll) s t := by
  obtain ⟨a, hcall, hrest⟩ := bindResult_eq_next.1 h
  cases hrest
  exact (callFrameAvailable_keeps hcall).trans (setSeq_keeps _ _)

theorem execSqFetch_keeps {s t : State} (h : execSqFetch s = .next t) : Keeps (writeSet .sqFetch) s t := by
  obtain ⟨⟨r, u⟩, hcall, hrest⟩ := bindResult_eq_next.1 h
  refine (callReceiveFrame_keeps hcall).trans (ws' := [.held, .seq]) ?_
  cases r with
  | ok fr => cases hrest; exact (setHeld_keeps _ _ u).trans (setSeq_keeps _ _)
  | fault c => cases hrest; exact (setSeq_keeps _ u).mono (by simp)

theorem execSqXform_keeps {s t : State} (h : execSqXform s = .next t) : Keeps (writeSet .sqXform) s t := by
  rw [execSqXform_eq_ite] at h
  split at h
  all_goals
    cases h
    exact fun r => by cases r <;> simp [writeSet, Register.Same]

theorem execSqTx_keeps {s t : State} (h : execSqTx s = .next t) : Keeps (writeSet .sqTx) s t := by
  obtain ⟨⟨r, u⟩, hcall, hrest⟩ := bindResult_eq_next.1 h
  cases hrest
  exact (callTransmitFrame_keeps hcall).trans ((txReact_releaseHeld_keeps r u).trans (setSeq_keeps _ _))

/-- An instruction writes no register outside its `writeSet`. -/
theorem exec_keeps {i : Instr} {s t : State} (h : exec i s = .next t) : Keeps (writeSet i) s t := by
  cases i with
  | initBus n => exact dropResponse_keeps callInitBus_keeps h
  | configureFilters tb => exact dropResponse_keeps callConfigureFilters_keeps h
  | frameAvailable => exact dropResponse_keeps callFrameAvailable_keeps h
  | receiveFrame => exact dropResponse_keeps callReceiveFrame_keeps h
  | transmitFrame fr => exact dropResponse_keeps callTransmitFrame_keeps h
  | diagSet b => cases h; exact writeDiag_keeps b s
  | diagToggle => cases h; exact writeDiag_keeps _ s
  | reset => cases h; exact resetState_keeps s
  | rxOffer fr => exact offerFrame_keeps h
  | sqInit => exact execSqInit_keeps h
  | sqCfg => exact execSqCfg_keeps h
  | sqStx => exact execSqStx_keeps h
  | sqPoll => exact execSqPoll_keeps h
  | sqFetch => exact execSqFetch_keeps h
  | sqXform => exact execSqXform_keeps h
  | sqTx => exact execSqTx_keeps h
  | sqHalt => cases h; exact setSeq_keeps _ s

/-! ### The writers of each register -/

theorem bus_mem_writeSet {i : Instr} :
    .bus ∈ writeSet i ↔ (∃ n, i = .initBus n) ∨ i = .sqInit ∨ i = .reset := by
  cases i <;> simp [writeSet]

theorem filter_mem_writeSet {i : Instr} :
    .filter ∈ writeSet i ↔ (∃ tb, i = .configureFilters tb) ∨ i = .sqCfg ∨ i = .reset := by
  cases i <;> simp [writeSet]

theorem buffer_mem_writeSet {i : Instr} :
    .buffer ∈ writeSet i ↔ (∃ fr, i = .rxOffer fr) ∨ i = .receiveFrame ∨ i = .sqFetch ∨ i = .reset := by
  cases i <;> simp [writeSet]

theorem held_mem_writeSet {i : Instr} :
    .held ∈ writeSet i ↔ i = .sqStx ∨ i = .sqFetch ∨ i = .sqXform ∨ i = .sqTx ∨ i = .reset := by
  cases i <;> simp [writeSet]

theorem txFault_mem_writeSet {i : Instr} : .txFault ∈ writeSet i ↔ i = .sqStx ∨ i = .sqTx ∨ i = .reset := by
  cases i <;> simp [writeSet]

theorem indicator_mem_writeSet {i : Instr} :
    .indicator ∈ writeSet i ↔
      (∃ b, i = .diagSet b) ∨ i = .diagToggle ∨ i = .sqInit ∨ i = .sqCfg ∨ i = .sqStx ∨ i = .reset := by
  cases i <;> simp [writeSet]

/-- Settles O40: the indicator is in the write set of no other instruction. -/
theorem onlyBootWritesTheIndicator : Obligations.OnlyBootWritesTheIndicator := by
  intro i s t h hset htoggle hinit hcfg hstx hreset
  exact (exec_keeps h).same .indicator (by simp [indicator_mem_writeSet, *])

/-- Settles O42: the bus flags and the filter registers are in the write sets of their own operations only. -/
theorem onlyTheirOperationsWriteBusAndFilterRegisters :
    Obligations.OnlyTheirOperationsWriteBusAndFilterRegisters := by
  intro i s t h hreset
  constructor
  · intro hbus hinit
    exact (exec_keeps h).same .bus (by simp [bus_mem_writeSet, *])
  · intro hconf hcfg
    exact (exec_keeps h).same .filter (by simp [filter_mem_writeSet, *])

/-- Settles O43: the held frame is in the write sets of the relay's instructions only, and of the two outcomes of
`SQ_XFORM` one writes the identifier and the other no field of `HF`. -/
theorem onlyTheRelayWritesTheHeldFrame : Obligations.OnlyTheRelayWritesTheHeldFrame := by
  constructor
  · intro i s t h hstx hfetch hxform htx hreset
    exact (exec_keeps h).same .held (by simp [held_mem_writeSet, *])
  · intro s t h
    have h : execSqXform s = .next t := h
    rw [execSqXform_eq_ite] at h
    split at h <;> (cases h; exact ⟨rfl, rfl, rfl, rfl⟩)

/-- Settles O44: `RXB` is in the write sets of the offer, the fetches and `RESET` only. -/
theorem onlyOffersAndFetchesChangeTheBuffer : Obligations.OnlyOffersAndFetchesChangeTheBuffer := by
  intro i s t h hoffer hreceive hfetch hreset
  exact (exec_keeps h).same .buffer (by simp [buffer_mem_writeSet, *])

/-! ### `TXF` -/

/-- What a transmit and its reaction leave in `TXF` (60_exceptions R179). -/
theorem callTransmitFrame_txReact_txf {fr : Frame} {s u : State} {r : Status}
    (h : callTransmitFrame fr s = .next (r, u)) :
    (txReact r u).txf = true ↔ s.txf = true ∨ s.draws.oTx = .fault := by
  obtain ⟨-, -, ⟨hTx, hru⟩ | ⟨hTx, hru⟩⟩ := callTransmitFrame_eq_next.1 h
  all_goals
    obtain ⟨rfl, rfl⟩ := Prod.mk.inj hru
    simp [hTx]

theorem execSqStx_txf {s t : State} (h : execSqStx s = .next t) :
    t.txf = true ↔ s.txf = true ∨ s.draws.oTx = .fault := by
  obtain ⟨⟨r, u⟩, hcall, hrest⟩ := bindResult_eq_next.1 h
  cases hrest
  exact callTransmitFrame_txReact_txf (s := { s with hf := loadHeld Config.diagFrame }) hcall

theorem execSqTx_txf {s t : State} (h : execSqTx s = .next t) :
    t.txf = true ↔ s.txf = true ∨ s.draws.oTx = .fault := by
  obtain ⟨⟨r, u⟩, hcall, hrest⟩ := bindResult_eq_next.1 h
  cases hrest
  exact callTransmitFrame_txReact_txf hcall

/-- Every instruction leaves `TXF` alone, is a transmit of the sequencer, or is `RESET`. -/
theorem exec_txf {i : Instr} {s t : State} (h : exec i s = .next t) :
    t.txf = s.txf ∨
      ((i = .sqStx ∨ i = .sqTx) ∧ (t.txf = true ↔ s.txf = true ∨ s.draws.oTx = .fault)) ∨
      (i = .reset ∧ t.txf = false) := by
  obtain hw | hsame := exec_keeps h .txFault
  · obtain rfl | rfl | rfl := txFault_mem_writeSet.1 hw
    · exact .inr (.inl ⟨.inl rfl, execSqStx_txf h⟩)
    · exact .inr (.inl ⟨.inr rfl, execSqTx_txf h⟩)
    · cases h
      exact .inr (.inr ⟨rfl, rfl⟩)
  · exact .inl hsame

/-- Settles O41: by the three things that an instruction can do to `TXF`. -/
theorem transmitFaultFlagIsSticky : Obligations.TransmitFaultFlagIsSticky := by
  intro i s t h
  obtain hsame | ⟨htx, hiff⟩ | ⟨hreset, hclear⟩ := exec_txf h
  · simp_all
  · exact ⟨fun hs _ => hiff.2 (.inl hs), fun hs ht => ⟨htx, (hiff.1 ht).resolve_left (by simp [hs])⟩⟩
  · exact ⟨fun _ hne => absurd hreset hne, fun _ ht => by simp [hclear] at ht⟩

end Sys2Proof.Machine

/-! # The invariants of reachable states (10_state R39, R40) -/

namespace Sys2Proof.Machine

/-! ### The state after reset -/

/-- Settles O27: each value is a field of the state after reset. -/
theorem stateAfterReset : Obligations.StateAfterReset := fun _ =>
  ⟨rfl, rfl, rfl, rfl, rfl, rfl, rfl, rfl, rfl, rfl, rfl, rfl⟩

/-- With no cell listed the ROM spells the deployment table (30_encoding R74). -/
theorem readTable_nil : readTable [] = .next Config.table := rfl

/-- After reset nothing is installed, held or waiting, and the ROM is the deployment's. -/
theorem inv_resetWith {p : Params} (hp : p.wf = true) : Inv (State.resetWith p) where
  configured := rfl
  bus_off := fun _ => rfl
  bus_on := fun hne _ => absurd rfl hne
  held := rfl
  buffer_wf := by simp [State.resetWith]
  held_wf := by simp [State.resetWith]
  buffer_cap := Nat.zero_le _
  fetch_ready := by simp [State.resetWith]
  buffer_accepted := by simp [State.resetWith]
  installed := by simp [State.resetWith]
  indicator := rfl
  params_ok := hp
  rom_ok := reset_rom_wf p
  rom_table := ⟨Config.table, readTable_nil⟩
  environment := by simp [State.resetWith]

theorem params_wf : Params.wf Config.params = true := by simp [Params.wf, Config.params]

/-- Settles O50: for all parameters in range, those of the block among them. -/
theorem invariantsHoldAfterReset : Obligations.InvariantsHoldAfterReset :=
  ⟨fun _ hp => inv_resetWith hp, inv_resetWith params_wf⟩

/-! ### What the environment can bring (00_scope R13, 41_interface_ops R120c) -/

/-- The only events are `RESET` and `RX_OFFER` (30_encoding R79). -/
theorem decodeEvent_eq_ok {bytes : List Byte} {i : Instr} (h : decodeEvent bytes = .ok i) :
    i = .reset ∨ ∃ fr, i = .rxOffer fr := by
  unfold decodeEvent at h
  split at h
  · cases h
  · split at h
    · split at h
      · cases h; exact .inl rfl
      · cases h
    · next rest _ _ =>
      cases hfr : decodeFrame rest with
      | error e => simp [hfr, Except.map] at h
      | ok fr =>
        simp only [hfr, Except.map, Except.ok.injEq] at h
        exact .inr ⟨fr, h.symm⟩
    · cases h

theorem Inv.line_fromEnvironment {s : State} (hs : Inv s) : fromEnvironment s.line = true := by
  cases hscript : s.script with
  | nil => rw [line_of_script_nil hscript]; rfl
  | cons l rest =>
    rw [line_of_script_cons hscript]
    exact hs.environment l (by simp [hscript])

/-- Where no command arrives from outside, a step runs the selected micro-operation or an event. -/
theorem Inv.fetched_cases {s : State} {i : Instr} (hs : Inv s) (hi : fetched s = .ok i) :
    i = microOp s.seq ∨ i = .reset ∨ ∃ fr, i = .rxOffer fr := by
  cases hline : s.line with
  | seqStep d =>
    rw [fetched_of_seqStep hline, Except.ok.injEq] at hi
    exact .inl hi.symm
  | event bytes d =>
    rw [fetched_of_event hline] at hi
    exact .inr (decodeEvent_eq_ok hi)
  | command bytes d =>
    have henv := hs.line_fromEnvironment
    simp [hline, fromEnvironment] at henv

/-- Settles O53: with the table installed the sequencer is past `SQ_CFG`, and no event but `RESET` writes the filter
registers. -/
theorem installedTableIsConstant : Obligations.InstalledTableIsConstant := by
  intro s t hs hcfgd hstep hnoreset
  obtain ⟨i, u, hi, hexec, rfl⟩ := step_eq_next.1 hstep
  have hpast : configuredSeq s.seq = true := by rw [← hs.configured, hcfgd]
  have hkept : .filter ∉ writeSet i := by
    obtain rfl | rfl | ⟨fr, rfl⟩ := hs.fetched_cases hi
    · cases hseq : s.seq <;> simp_all [configuredSeq, microOp, writeSet]
    · exact absurd hi hnoreset
    · simp [writeSet]
  obtain ⟨hcfgd', hfilters⟩ := (exec_keeps hexec).same .filter hkept
  exact ⟨hcfgd'.trans hcfgd, hfilters⟩

/-! ### The facts about the buffer, the gate and the transform on which the invariants rest -/

/-- `STORE` keeps the buffer within its capacity (40_acceptance_filter R105). -/
theorem storeFrame_length_le {p : Params} {rxb : List Frame} (fr : Frame) (hcap : 1 ≤ p.rxCap)
    (hlen : rxb.length ≤ p.rxCap) : (storeFrame p rxb fr).length ≤ p.rxCap := by
  unfold storeFrame
  split
  · simp only [List.length_append, List.length_singleton]; omega
  · split
    · exact hlen
    · simp only [List.length_append, List.length_tail, List.length_singleton]; omega
    · simp only [List.length_append, List.length_dropLast, List.length_singleton]; omega

/-- `STORE` empties no buffer. -/
theorem storeFrame_ne_nil {p : Params} {rxb : List Frame} (fr : Frame) (h : rxb ≠ []) :
    storeFrame p rxb fr ≠ [] := by
  unfold storeFrame
  split
  · simp
  · split
    · exact h
    · simp
    · simp

/-- Under `REJECT_ALL` only the installed table lets a frame in (40_acceptance_filter R104). -/
theorem accept_of_offerStored {s : State} {fr : Frame} (hp : s.params.precfg = .rejectAll)
    (h : offerStored s fr = true) : s.cfgd = true ∧ accept s.filters fr = true := by
  cases hcfgd : s.cfgd with
  | false => simp [offerStored, hcfgd, hp] at h
  | true =>
    simp only [offerStored, hcfgd] at h
    split at h
    · cases h
    · exact ⟨rfl, h⟩

theorem toNat_ofNat_lt_of_lt {n b : Nat} (h : n < b) : (BitVec.ofNat 29 n).toNat < b := by
  rw [BitVec.toNat_ofNat]
  exact lt_of_le_of_lt (Nat.mod_le _ _) h

/-- What the transform keeps fits its width class (42_relay_sequencer R149). -/
theorem xform_fits {p : IdOvfPolicy} {id : Ident} {e : Bool} (h : (xform p id e).2 = true) :
    (xform p id e).1.toNat < 2 ^ widthOf e := by
  have hpos : 0 < 2 ^ widthOf e := Nat.two_pow_pos _
  cases p with
  | wrap => exact toNat_ofNat_lt_of_lt (Nat.mod_lt _ hpos)
  | saturate =>
    refine toNat_ofNat_lt_of_lt ?_
    simp only [decide_eq_true_eq]
    split <;> omega
  | reject =>
    refine toNat_ofNat_lt_of_lt ?_
    simp only [xform, Bool.not_eq_true', decide_eq_false_iff_not] at h
    omega

/-- The transform of a well-formed held frame that is kept is well-formed (00_scope R12). -/
theorem frameWF_heldFrame_xform {p : IdOvfPolicy} {h : HeldFrame} (hwf : frameWF (heldFrame h) = true)
    (hkeep : (xform p h.id h.ext).2 = true) : frameWF (heldFrame { h with id := (xform p h.id h.ext).1 }) = true := by
  obtain ⟨hlen, hdata, -⟩ := (frameWF_iff _).1 hwf
  exact (frameWF_iff _).2 ⟨hlen, hdata, xform_fits hkeep⟩

theorem configuredSeq_of_relaying {q : SeqState} (h : relaying q = true) : configuredSeq q = true := by
  cases q <;> simp_all [relaying, configuredSeq]

theorem indicatorSignature_of_relaying {s : State} (h : relaying s.seq = true) :
    indicatorSignature s = [true, false, true] := by
  unfold indicatorSignature
  cases hseq : s.seq <;> simp_all [relaying]

/-! ### The steps of the boot -/

theorem Inv.traced {s : State} (hs : Inv s) (e : TraceEntry) : Inv (s.traced e) := { hs with }

/-- A Configuration fault leaves the stage as it is or halts there, with the indicator of that stage
(60_exceptions R176, R183). -/
theorem Inv.cfgReact {s : State} (hs : Inv s) (hseq : s.seq = .booting ∨ s.seq = .filterConfig) :
    Inv (cfgReact s) := by
  unfold Machine.cfgReact
  split
  · exact hs
  · have hsig : indicatorSignature { s with seq := .halted } = indicatorSignature s := by
      obtain hq | hq := hseq
      · simp [indicatorSignature, hq, hs.bus_off hq]
      · simp [indicatorSignature, hq, hs.bus_on (by simp [hq]) (by simp [hq])]
    exact { hs with
      configured := by obtain hq | hq := hseq <;> simp [hs.configured, hq, configuredSeq]
      bus_off := nofun
      bus_on := fun _ hne => absurd rfl hne
      held := by obtain hq | hq := hseq <;> simp [hs.held, hq, holdingSeq]
      fetch_ready := nofun
      indicator := by rw [hsig]; exact hs.indicator }

theorem execSqInit_inv {s t : State} (hs : Inv s) (hseq : s.seq = .booting) (h : execSqInit s = .next t) : Inv t := by
  obtain ⟨a, hcall, hrest⟩ := bindResult_eq_next.1 h
  obtain ⟨-, rfl⟩ | ⟨-, rfl⟩ := callInitBus_eq_next.1 hcall
  · cases hrest
    exact { hs with
      configured := by simp [hs.configured, hseq, configuredSeq]
      bus_off := nofun
      bus_on := fun _ _ => rfl
      held := by simp [hs.held, hseq, holdingSeq]
      fetch_ready := nofun
      indicator := by simp [indicatorSignature, hs.indicator, hseq] }
  · cases hrest
    exact (hs.traced _).cfgReact (.inl hseq)

theorem execSqCfg_inv {s t : State} (hs : Inv s) (hseq : s.seq = .filterConfig) (h : execSqCfg s = .next t) :
    Inv t := by
  obtain ⟨tb, hread, htb⟩ := bindResult_eq_next.1 h
  obtain ⟨a, hcall, hrest⟩ := bindResult_eq_next.1 htb
  have hnot : s.cfgd = false := by rw [hs.configured, hseq]; rfl
  obtain ⟨hbus, ⟨-, rfl⟩ | ⟨-, -, rfl⟩ | ⟨hwf, -, rfl⟩⟩ := callConfigureFilters_eq_next.1 hcall
  · cases hrest
    exact (hs.traced _).cfgReact (.inr hseq)
  · cases hrest
    exact (hs.traced _).cfgReact (.inr hseq)
  · cases hrest
    exact { hs with
      configured := rfl
      bus_off := nofun
      bus_on := fun _ _ => hbus
      held := by simp [hs.held, hseq, holdingSeq]
      fetch_ready := nofun
      -- Under `REJECT_ALL` nothing has been let in before the table is installed.
      buffer_accepted := fun hp fr hfr => by simpa [hnot] using (hs.buffer_accepted hp fr hfr).1
      installed := fun _ => ⟨hwf, hread⟩
      indicator := by simp [indicatorSignature, hs.indicator, hseq] }

/-! ### The steps of the relay -/

/-- A step into or inside the relay keeps the invariants, if it leaves the bus, the filter and the wired fields alone,
takes frames out of the buffer only, and leaves `HF`, `HFV`, `DIAG` and the buffer as the new state of the sequencer
demands. -/
theorem Inv.of_relaying {s t : State} (hs : Inv s) (hstage : configuredSeq s.seq = true)
    (hk : Keeps [.buffer, .held, .seq, .txFault, .indicator] s t) (hseq : relaying t.seq = true)
    (hdiag : t.diag = true) (hheld : t.hfv = holdingSeq t.seq)
    (hheldwf : t.hfv = true → frameWF (heldFrame t.hf) = true) (hbuf : t.rxb.Sublist s.rxb)
    (hfetch : t.seq = .relayFetch → t.rxb ≠ []) : Inv t := by
  obtain ⟨hbuson, -⟩ := hk.same .bus (by simp)
  obtain ⟨hcfgd, hfilters⟩ := hk.same .filter (by simp)
  obtain ⟨hparams, hrom, hscript, -⟩ := hk.same .wired (by simp)
  have hon : s.buson = true := by
    refine hs.bus_on ?_ ?_ <;> (intro hq; rw [hq] at hstage; cases hstage)
  exact
    { configured := by rw [hcfgd, hs.configured, hstage, configuredSeq_of_relaying hseq]
      bus_off := fun hq => by rw [hq] at hseq; cases hseq
      bus_on := fun _ _ => hbuson.trans hon
      held := hheld
      buffer_wf := fun fr hfr => hs.buffer_wf fr (hbuf.subset hfr)
      held_wf := hheldwf
      buffer_cap := by rw [hparams]; exact hbuf.length_le.trans hs.buffer_cap
      fetch_ready := hfetch
      buffer_accepted := fun hp fr hfr => by
        rw [hparams] at hp
        rw [hcfgd, hfilters]
        exact hs.buffer_accepted hp fr (hbuf.subset hfr)
      installed := by rw [hcfgd, hfilters, hrom]; exact hs.installed
      indicator := by rw [hdiag, indicatorSignature_of_relaying hseq]; rfl
      params_ok := by rw [hparams]; exact hs.params_ok
      rom_ok := by rw [hrom]; exact hs.rom_ok
      rom_table := by rw [hrom]; exact hs.rom_table
      environment := by rw [hscript]; exact hs.environment }

theorem Inv.diag_of_relaying {s : State} (hs : Inv s) (h : relaying s.seq = true) : s.diag = true := by
  rw [hs.indicator, indicatorSignature_of_relaying h]; rfl

theorem execSqStx_inv {s t : State} (hs : Inv s) (hseq : s.seq = .startupTx) (h : execSqStx s = .next t) : Inv t := by
  have hk := execSqStx_keeps h
  have hbuf : t.rxb = s.rxb := hk.same .buffer (by simp [writeSet])
  obtain ⟨⟨r, u⟩, hcall, hrest⟩ := bindResult_eq_next.1 h
  have hsame : u.diag = s.diag := ((callTransmitFrame_keeps hcall).same .indicator (by simp)).1
  have hdiag : u.diag = false := by rw [hsame, hs.indicator, indicatorSignature, hseq]; rfl
  cases hrest
  exact hs.of_relaying (by simp [hseq, configuredSeq]) (hk.mono (by simp [writeSet])) rfl (by simp [hdiag]) rfl nofun
    (by rw [hbuf]) nofun

/-- The four operations inside the relay write only the buffer, `HF`, `HFV`, `SEQ` and `TXF`. -/
theorem Inv.of_relay_step {s t : State} (hs : Inv s) (hrelay : relaying s.seq = true)
    (hk : Keeps [.buffer, .held, .seq, .txFault] s t) (hseq : relaying t.seq = true)
    (hheld : t.hfv = holdingSeq t.seq) (hheldwf : t.hfv = true → frameWF (heldFrame t.hf) = true)
    (hbuf : t.rxb.Sublist s.rxb) (hfetch : t.seq = .relayFetch → t.rxb ≠ []) : Inv t := by
  obtain ⟨hdiag, -⟩ := hk.same .indicator (by simp)
  exact hs.of_relaying (configuredSeq_of_relaying hrelay) (hk.mono (by simp)) hseq
    (hdiag.trans (hs.diag_of_relaying hrelay)) hheld hheldwf hbuf hfetch

theorem execSqPoll_inv {s t : State} (hs : Inv s) (hseq : s.seq = .relayPoll) (h : execSqPoll s = .next t) :
    Inv t := by
  have hk := (execSqPoll_keeps h).mono (ws' := [.buffer, .held, .seq, .txFault]) (by simp [writeSet])
  have hhfv : s.hfv = false := by rw [hs.held, hseq]; rfl
  obtain ⟨a, hcall, hrest⟩ := bindResult_eq_next.1 h
  obtain ⟨-, rfl⟩ | ⟨hne, rfl⟩ := callFrameAvailable_eq_next.1 hcall
  · cases hrest
    exact hs.of_relay_step (by simp [hseq, relaying]) hk rfl hhfv hs.held_wf (.refl _) nofun
  · cases hrest
    exact hs.of_relay_step (by simp [hseq, relaying]) hk rfl hhfv hs.held_wf (.refl _) fun _ => hne

theorem execSqFetch_inv {s t : State} (hs : Inv s) (hseq : s.seq = .relayFetch) (h : execSqFetch s = .next t) :
    Inv t := by
  have hk := (execSqFetch_keeps h).mono (ws' := [.buffer, .held, .seq, .txFault]) (by simp [writeSet])
  have hhfv : s.hfv = false := by rw [hs.held, hseq]; rfl
  have hrelay : relaying s.seq = true := by rw [hseq]; rfl
  obtain ⟨a, hcall, hrest⟩ := bindResult_eq_next.1 h
  obtain ⟨fr, rest, hrxb, ⟨-, rfl⟩ | ⟨-, -, rfl⟩ | ⟨-, -, rfl⟩⟩ := callReceiveFrame_eq_next.1 hcall
  · cases hrest
    have hfr : frameWF fr = true := hs.buffer_wf fr (by simp [hrxb])
    refine hs.of_relay_step hrelay hk rfl rfl (fun _ => ?_) (by simp [hrxb]) nofun
    exact (congrArg frameWF (heldFrame_loadHeld hfr)).trans hfr
  · cases hrest
    exact hs.of_relay_step hrelay hk rfl hhfv hs.held_wf (by simp [hrxb]) nofun
  · cases hrest
    exact hs.of_relay_step hrelay hk rfl hhfv hs.held_wf (by simp [hrxb]) nofun

theorem execSqXform_inv {s t : State} (hs : Inv s) (hseq : s.seq = .relayXform) (h : execSqXform s = .next t) :
    Inv t := by
  have hk := (execSqXform_keeps h).mono (ws' := [.buffer, .held, .seq, .txFault]) (by simp [writeSet])
  have hhfv : s.hfv = true := by rw [hs.held, hseq]; rfl
  have hrelay : relaying s.seq = true := by rw [hseq]; rfl
  rw [execSqXform_eq_ite] at h
  split at h
  · next hkeep =>
    cases h
    exact hs.of_relay_step hrelay hk rfl hhfv (fun _ => frameWF_heldFrame_xform (hs.held_wf hhfv) hkeep) (.refl _) nofun
  · cases h
    exact hs.of_relay_step hrelay hk rfl rfl nofun (.refl _) nofun

theorem execSqTx_inv {s t : State} (hs : Inv s) (hseq : s.seq = .relayTx) (h : execSqTx s = .next t) : Inv t := by
  have hk := execSqTx_keeps h
  have hbuf : t.rxb = s.rxb := hk.same .buffer (by simp [writeSet])
  obtain ⟨a, -, hrest⟩ := bindResult_eq_next.1 h
  cases hrest
  exact hs.of_relay_step (by simp [hseq, relaying]) (hk.mono (by simp [writeSet])) rfl rfl nofun (by rw [hbuf]) nofun

theorem execSqHalt_inv {s t : State} (hs : Inv s) (hseq : s.seq = .halted) (h : execSqHalt s = .next t) : Inv t := by
  cases h
  rw [← hseq]
  exact hs

/-- The micro-operation that `SEQ` selects keeps the invariants. -/
theorem exec_microOp_inv {s t : State} (hs : Inv s) (h : exec (microOp s.seq) s = .next t) : Inv t := by
  cases hseq : s.seq <;> rw [hseq] at h
  case booting => exact execSqInit_inv hs hseq h
  case filterConfig => exact execSqCfg_inv hs hseq h
  case startupTx => exact execSqStx_inv hs hseq h
  case relayPoll => exact execSqPoll_inv hs hseq h
  case relayFetch => exact execSqFetch_inv hs hseq h
  case relayXform => exact execSqXform_inv hs hseq h
  case relayTx => exact execSqTx_inv hs hseq h
  case halted => exact execSqHalt_inv hs hseq h

/-! ### The events -/

theorem Inv.resetState {s : State} (hs : Inv s) : Inv (resetState s) :=
  { hs with
    configured := rfl
    bus_off := fun _ => rfl
    bus_on := fun hne _ => absurd rfl hne
    held := rfl
    buffer_wf := by simp
    held_wf := nofun
    buffer_cap := Nat.zero_le _
    fetch_ready := nofun
    buffer_accepted := by simp
    installed := nofun
    indicator := rfl }

theorem offerFrame_inv {fr : Frame} {s t : State} (hs : Inv s) (h : offerFrame fr s = .next t) : Inv t := by
  obtain ⟨hwf, ⟨hstored, rfl⟩ | ⟨-, rfl⟩⟩ := offerFrame_eq_next.1 h
  · exact { hs with
      buffer_wf := fun x hx => by
        obtain hold | rfl := mem_storeFrame hx
        · exact hs.buffer_wf x hold
        · exact hwf
      buffer_cap := storeFrame_length_le fr (of_decide_eq_true hs.params_ok) hs.buffer_cap
      fetch_ready := fun hq => storeFrame_ne_nil fr (hs.fetch_ready hq)
      buffer_accepted := fun hp x hx => by
        obtain hold | rfl := mem_storeFrame hx
        · exact hs.buffer_accepted hp x hold
        · exact accept_of_offerStored hp hstored }
  · exact hs

theorem Inv.advance {s : State} (hs : Inv s) : Inv (advance s) :=
  { hs with environment := fun l hl => hs.environment l (List.mem_of_mem_tail hl) }

/-- Settles O51: by what a step can run where no command arrives from outside. -/
theorem everyStepKeepsTheInvariants : Obligations.EveryStepKeepsTheInvariants := by
  intro s t hs hstep
  obtain ⟨i, u, hi, hexec, rfl⟩ := step_eq_next.1 hstep
  refine Inv.advance ?_
  obtain rfl | rfl | ⟨fr, rfl⟩ := hs.fetched_cases hi
  · exact exec_microOp_inv hs hexec
  · cases hexec
    exact hs.resetState
  · exact offerFrame_inv hs hexec

end Sys2Proof.Machine

/-! # The `TABLE` ROM: its bytes, its words and the table they spell (20_memory R51, R58, R61) -/

namespace Sys2Proof.Machine

/-! ### Reads of several bytes -/

/-- An address of the ROM reads as the byte listed for it, or as the deployment image's (20_memory R51). -/
theorem romByte_of_lt {m : List Host.Cell} {a : Nat} (h : a < 32) :
    romByte m a = .ok ((romLookup m a).getD (romDefault a)) :=
  if_pos h

theorem romByte_of_ge {m : List Host.Cell} {a : Nat} (h : 32 ≤ a) : romByte m a = .error (.romAddress a) :=
  if_neg (Nat.not_lt.2 h)

/-- Bytes that can be read one by one can be read together, lowest address first (00_scope R10). -/
theorem romBytes_of_romByte {m : List Host.Cell} {b : Nat → Byte} (n a : Nat)
    (h : ∀ k, a ≤ k → k < a + n → romByte m k = .ok (b k)) : romBytes m a n = .ok ((List.range' a n).map b) := by
  induction n generalizing a with
  | zero => rfl
  | succ n ih =>
    have hfirst : romByte m a = .ok (b a) := h a le_rfl (by omega)
    have hrest := ih (a + 1) fun k hle hlt => h k (by omega) (by omega)
    simp only [romBytes, hfirst, hrest, List.range'_succ, List.map_cons]

/-- A read that runs past address 31 gives nothing (20_memory R51, R58). -/
theorem romBytes_past_end {m : List Host.Cell} (n a : Nat) (hn : 0 < n) (h : 32 < a + n) :
    ∃ e, romBytes m a n = .error e := by
  induction n generalizing a with
  | zero => omega
  | succ n ih =>
    by_cases ha : a < 32
    · obtain ⟨e, he⟩ := ih (a + 1) (by omega) (by omega)
      exact ⟨e, by simp only [romBytes, romByte_of_lt ha, he]⟩
    · exact ⟨.romAddress a, by simp only [romBytes, romByte_of_ge (Nat.not_lt.1 ha)]⟩

/-- Settles O9: `romByte` by the address alone, and a read of four bytes byte by byte. -/
theorem romEndsAtAddress31 : Obligations.RomEndsAtAddress31 := by
  refine ⟨fun m a => ⟨fun h => ?_, romByte_of_ge⟩, fun m a ha => ?_, fun m a ha => ?_⟩
  · by_contra hlt
    simp [romByte_of_lt (Nat.not_le.1 hlt)] at h
  · obtain ⟨bs, hread, hlen⟩ := romBytes_inside m 4 a (by simp only [Config.romSize]; omega)
    refine ⟨leNat bs, by simp [memRead, hread, Except.map], ?_⟩
    simpa [hlen] using leNat_lt bs
  · obtain ⟨e, he⟩ := romBytes_past_end (m := m) 4 a (by omega) (by omega)
    exact ⟨e, by simp [memRead, he, Except.map]⟩

/-! ### Entry words (30_encoding R73) -/

/-- What the bits of an entry word say: the value [28:0] and the tag [31] (30_encoding R73). -/
def entryOfNat (n : Nat) : Entry := { x := n.testBit 31, v := BitVec.ofNat 29 n }

/-- An entry word is read exactly when its bits [30:29] are 0 (30_encoding R73). -/
theorem decodeEntryWord_ofNat (n : Nat) :
    decodeEntryWord (BitVec.ofNat 32 n) =
      if n / 2 ^ 29 % 4 = 0 then .ok (entryOfNat n) else .error .entryReservedBits := by
  have hreserved : (BitVec.ofNat 32 n).extractLsb' 29 2 = 0#2 ↔ n / 2 ^ 29 % 4 = 0 := by
    rw [← BitVec.toNat_inj, BitVec.extractLsb'_toNat, BitVec.toNat_ofNat, BitVec.toNat_ofNat, Nat.shiftRight_eq_div_pow]
    omega
  have hvalue : (BitVec.ofNat 32 n).extractLsb' 0 29 = BitVec.ofNat 29 n := by
    apply BitVec.eq_of_toNat_eq
    rw [BitVec.extractLsb'_toNat, BitVec.toNat_ofNat, BitVec.toNat_ofNat, Nat.shiftRight_zero]
    omega
  have htag : (BitVec.ofNat 32 n).getLsbD 31 = n.testBit 31 := by rw [BitVec.getLsbD_ofNat]; rfl
  simp only [decodeEntryWord, hreserved, hvalue, htag, entryOfNat]

/-- Decoding an entry's word gives the entry (30_encoding R73). -/
theorem decodeEntryWord_entryWord (e : Entry) : decodeEntryWord (entryWord e) = .ok e := by
  have hreserved : (entryWord e).extractLsb' 29 2 = 0#2 := by
    apply BitVec.eq_of_getLsbD_eq
    intro i hi
    have hne : 29 + i ≠ 31 := by omega
    simp [entryWord_getLsbD, hne]
  have hvalue : (entryWord e).extractLsb' 0 29 = e.v := by
    apply BitVec.eq_of_getLsbD_eq
    intro i hi
    have hne : i ≠ 31 := by omega
    simp [entryWord_getLsbD, hi, hne]
  have htag : (entryWord e).getLsbD 31 = e.x := by
    rw [entryWord_getLsbD, BitVec.getLsbD_of_ge e.v 31 (by omega)]
    simp
  simp only [decodeEntryWord, hreserved, hvalue, htag, if_true]

/-! ### The entries of the ROM -/

/-- The number in the four little-endian bytes 4j to 4j+3 (20_memory R51, 30_encoding R74). -/
def entryNumber (b : Nat → Byte) (j : Nat) : Nat :=
  (b (4 * j)).toNat + 2 ^ 8 * (b (4 * j + 1)).toNat + 2 ^ 16 * (b (4 * j + 2)).toNat + 2 ^ 24 * (b (4 * j + 3)).toNat

theorem memRead_entry {m : List Host.Cell} {b : Nat → Byte} (hb : ∀ a, a < 32 → romByte m a = .ok (b a)) {j : Nat}
    (hj : j < 8) : memRead m (4 * j) 4 = .ok (entryNumber b j) := by
  have hread := romBytes_of_romByte 4 (4 * j) fun k _ hk => hb k (by omega)
  have hsum : leNat ((List.range' (4 * j) 4).map b) = entryNumber b j := by
    simp only [List.range', List.map, leNat, entryNumber, Nat.add_assoc, Nat.reduceAdd]
    omega
  rw [memRead, hread, ← hsum]
  rfl

/-- Entry `j` of the ROM is its word decoded by R73. -/
theorem romEntry_of_bytes {m : List Host.Cell} {b : Nat → Byte} (hb : ∀ a, a < 32 → romByte m a = .ok (b a)) {j : Nat}
    (hj : j < 8) :
    romEntry m j =
      if entryNumber b j / 2 ^ 29 % 4 = 0 then .ok (entryOfNat (entryNumber b j))
      else .error (.inr .entryReservedBits) := by
  simp only [romEntry, memRead_entry hb hj, decodeEntryWord_ofNat]
  split <;> rfl

/-- Entry `j` of a ROM that holds an entry's image there is that entry. -/
theorem romEntry_of_image {m : List Host.Cell} {j : Nat} {e : Entry} (h : romBytes m (4 * j) 4 = .ok (encodeEntry e)) :
    romEntry m j = .ok e := by
  have hread : memRead m (4 * j) 4 = .ok (entryWord e).toNat := by
    rw [memRead, h]
    simp only [Except.map, encodeEntry, bytesOfWord, leNat_four, wordOfBytes_bytesOfWord]
  simp only [romEntry, hread, BitVec.ofNat_toNat, BitVec.setWidth_eq, decodeEntryWord_entryWord]
  rfl

/-! ### The table that the entries spell (30_encoding R74) -/

theorem bind_eq_error {ε α β : Type} {x : Except ε α} {f : α → Except ε β} {e : ε} :
    x >>= f = .error e ↔ x = .error e ∨ ∃ a, x = .ok a ∧ f a = .error e := by
  cases x <;> simp [bind, Except.bind]

/-- Where no table is read, one of the eight entries is to blame. -/
theorem exists_entry_of_tableFrom_eq_error {ε : Type} {entry : Nat → Except ε Entry} {e : ε}
    (h : tableFrom entry = .error e) : ∃ j, j < 8 ∧ entry j = .error e := by
  simp only [tableFrom, bind_eq_error] at h
  obtain h | ⟨_, -, h | ⟨_, -, h | ⟨_, -, h | ⟨_, -, h | ⟨_, -, h | ⟨_, -, h | ⟨_, -, h | ⟨_, -, h⟩⟩⟩⟩⟩⟩⟩⟩ := h
  · exact ⟨0, by omega, h⟩
  · exact ⟨1, by omega, h⟩
  · exact ⟨2, by omega, h⟩
  · exact ⟨3, by omega, h⟩
  · exact ⟨4, by omega, h⟩
  · exact ⟨5, by omega, h⟩
  · exact ⟨6, by omega, h⟩
  · exact ⟨7, by omega, h⟩
  · cases h

/-- The eight entries of a table, in the order of its image (30_encoding R74). -/
def tableEntries (t : Table) : List Entry := [t.f0, t.f1, t.f2, t.f3, t.f4, t.f5, t.m0, t.m1]

theorem lt_of_getElem?_tableEntries {t : Table} {j : Nat} {e : Entry} (h : (tableEntries t)[j]? = some e) : j < 8 :=
  (List.getElem?_eq_some_iff.1 h).1

/-- A table is read exactly when each of its entries is. -/
theorem tableFrom_eq_ok_iff_entries {ε : Type} {entry : Nat → Except ε Entry} {t : Table} :
    tableFrom entry = .ok t ↔ ∀ j e, (tableEntries t)[j]? = some e → entry j = .ok e := by
  constructor
  · intro h j e he
    obtain ⟨h0, h1, h2, h3, h4, h5, h6, h7⟩ := tableFrom_eq_ok.1 h
    have hj := lt_of_getElem?_tableEntries he
    interval_cases j <;> (cases he; assumption)
  · intro h
    exact tableFrom_eq_ok.2
      ⟨h 0 _ rfl, h 1 _ rfl, h 2 _ rfl, h 3 _ rfl, h 4 _ rfl, h 5 _ rfl, h 6 _ rfl, h 7 _ rfl⟩

/-- A ROM spells a table exactly when its entries are the table's. -/
theorem readTable_eq_next_iff_entries {m : List Host.Cell} {t : Table} :
    readTable m = .next t ↔ ∀ j e, (tableEntries t)[j]? = some e → romEntry m j = .ok e :=
  readTable_eq_next.trans tableFrom_eq_ok_iff_entries

/-- The table whose entries are the values of `f`, in the order of its image. -/
def tableOfEntries (f : Nat → Entry) : Table :=
  { f0 := f 0, f1 := f 1, f2 := f 2, f3 := f 3, f4 := f 4, f5 := f 5, m0 := f 6, m1 := f 7 }

theorem tableEntries_tableOfEntries (f : Nat → Entry) : tableEntries (tableOfEntries f) = (List.range 8).map f := rfl

theorem getElem?_tableEntries_tableOfEntries {f : Nat → Entry} {j : Nat} {e : Entry}
    (h : (tableEntries (tableOfEntries f))[j]? = some e) : j < 8 ∧ e = f j := by
  have hj := lt_of_getElem?_tableEntries h
  rw [tableEntries_tableOfEntries, List.getElem?_map, List.getElem?_range hj] at h
  exact ⟨hj, (Option.some.inj h).symm⟩

/-- A ROM whose words have no reserved bit set spells the table of its decoded words. -/
theorem readTable_of_clear_words {m : List Host.Cell} {b : Nat → Byte}
    (hb : ∀ a, a < 32 → romByte m a = .ok (b a)) (hclear : ∀ j, j < 8 → entryNumber b j / 2 ^ 29 % 4 = 0) :
    readTable m = .next (tableOfEntries fun j => entryOfNat (entryNumber b j)) := by
  refine readTable_eq_next_iff_entries.2 fun j e h => ?_
  obtain ⟨hj, rfl⟩ := getElem?_tableEntries_tableOfEntries h
  rw [romEntry_of_bytes hb hj, if_pos (hclear j hj)]

/-- One word with a reserved bit set, and the ROM spells no table: whichever entry fails, it fails by this name. -/
theorem readTable_of_reserved_word {m : List Host.Cell} {b : Nat → Byte}
    (hb : ∀ a, a < 32 → romByte m a = .ok (b a)) {j : Nat} (hj : j < 8)
    (hset : entryNumber b j / 2 ^ 29 % 4 ≠ 0) : readTable m = .refused (.invalidRomEntry .entryReservedBits) := by
  have hbad : romEntry m j = .error (.inr .entryReservedBits) := by rw [romEntry_of_bytes hb hj, if_neg hset]
  cases h : tableFrom (romEntry m) with
  | ok t =>
    have hgood := tableFrom_eq_ok_iff_entries.1 h j _ (List.getElem?_eq_getElem hj)
    cases hbad.symm.trans hgood
  | error e =>
    obtain ⟨k, hk, he⟩ := exists_entry_of_tableFrom_eq_error h
    rw [romEntry_of_bytes hb hk] at he
    split at he
    · cases he
    · cases he
      rw [readTable, h]

/-- A ROM made of a table's image holds at each address the image's byte. -/
theorem romByte_romOfTable (t : Table) {a : Nat} (ha : a < 32) :
    romByte (romOfTable t) a = .ok ((encodeTable t).getD a 0#8) := by
  have hlen : (encodeTable t).length = 32 := rfl
  rw [romOfTable, romByte_putBytes rfl (by rw [hlen]; rfl), if_pos (by omega), Nat.sub_zero]

/-- Entry `j` of a table's image is the image of its entry `j` (30_encoding R74). -/
theorem encodeTable_entry {t : Table} {j : Nat} {e : Entry} (h : (tableEntries t)[j]? = some e) :
    (List.range' (4 * j) 4).map (fun a => (encodeTable t).getD a 0#8) = encodeEntry e := by
  have hj := lt_of_getElem?_tableEntries h
  interval_cases j <;> (cases h; rfl)

theorem readTable_romOfTable (t : Table) : readTable (romOfTable t) = .next t := by
  refine readTable_eq_next_iff_entries.2 fun j e h => romEntry_of_image ?_
  have hj := lt_of_getElem?_tableEntries h
  rw [← encodeTable_entry h]
  exact romBytes_of_romByte 4 (4 * j) fun k _ hk => romByte_romOfTable t (by omega)

/-- Settles O8: after reset no cell is listed, and what a ROM spells goes by its eight words. -/
theorem romHoldsTheDeploymentTable : Obligations.RomHoldsTheDeploymentTable := by
  refine ⟨readTable_nil, rfl, fun a ha => romByte_of_lt ha, fun m b hb => ⟨fun j hj => memRead_entry hb hj, ?_, ?_⟩,
    readTable_romOfTable⟩
  · intro hclear
    refine ⟨_, readTable_of_clear_words hb hclear, fun j e h => ?_⟩
    obtain ⟨-, rfl⟩ := getElem?_tableEntries_tableOfEntries h
    exact ⟨BitVec.toNat_ofNat _ _, rfl⟩
  · rintro ⟨j, hj, hset⟩
    exact readTable_of_reserved_word hb hj hset

/-! ### What no instruction writes (20_memory R51, R61, 10_state R37) -/

theorem wired_not_mem_writeSet (i : Instr) : .wired ∉ writeSet i := by
  cases i <;> simp [writeSet]

/-- Settles O10: the wired part is in no instruction's write set. -/
theorem nothingWritesTheRomOrTheParameters : Obligations.NothingWritesTheRomOrTheParameters := by
  intro i s t h
  obtain ⟨hparams, hrom, hscript, hfreeIx⟩ := (exec_keeps h).same .wired (wired_not_mem_writeSet i)
  exact ⟨fun a => by rw [hrom], hparams, hscript, hfreeIx⟩

end Sys2Proof.Machine

/-! # Encodings: an item decodes exactly when it is the encoding of a well-formed instruction (30_encoding R70 to R82) -/

namespace Sys2Proof.Machine

/-! ### The conditions on a frame image (30_encoding R72) -/

/-- The conditions of R72 on the identifier word, `LENB` and the eight payload bytes of a 13-byte string. -/
structure FrameImageValid (idw : Word32) (lenb : Byte) (pay : List Byte) : Prop where
  reservedBit : idw.toNat.testBit 30 = false
  lenHigh : lenb.toNat / 16 = 0
  lenMax : lenb.toNat % 16 ≤ 8
  idFits : idw.toNat.testBit 31 = false → idw.toNat / 2 ^ 11 % 2 ^ 18 = 0
  padsZero : ∀ i, lenb.toNat % 16 ≤ i → i ≤ 7 → pay.getD i 0#8 = 0#8

theorem lowNibble_toNat (b : Byte) : (b.extractLsb' 0 4).toNat = b.toNat % 16 := by
  rw [BitVec.extractLsb'_toNat, Nat.shiftRight_zero]

theorem highNibble_eq_zero_iff (b : Byte) : b.extractLsb' 4 4 = 0#4 ↔ b.toNat / 16 = 0 := by
  have := b.isLt
  rw [← BitVec.toNat_inj, BitVec.extractLsb'_toNat, Nat.shiftRight_eq_div_pow, BitVec.toNat_ofNat]
  omega

theorem idwHigh_eq_zero_iff (w : Word32) : w.extractLsb' 11 18 = 0#18 ↔ w.toNat / 2 ^ 11 % 2 ^ 18 = 0 := by
  rw [← BitVec.toNat_inj, BitVec.extractLsb'_toNat, Nat.shiftRight_eq_div_pow, BitVec.toNat_ofNat, Nat.zero_mod]

theorem any_drop_ne_zero_iff (pay : List Byte) (n : Nat) :
    (pay.drop n).any (fun d => d != 0#8) = true ↔ ∃ i, n ≤ i ∧ i < pay.length ∧ pay.getD i 0#8 ≠ 0#8 := by
  simp only [List.any_eq_true, bne_iff_ne, List.mem_drop_iff_getElem]
  constructor
  · rintro ⟨_, ⟨j, hj, rfl⟩, hne⟩
    exact ⟨n + j, by omega, by omega, by rwa [List.getD_eq_getElem _ _ (by omega)]⟩
  · rintro ⟨i, hn, hi, hne⟩
    obtain ⟨j, rfl⟩ := Nat.exists_eq_add_of_le hn
    exact ⟨_, ⟨j, by omega, rfl⟩, by rwa [List.getD_eq_getElem _ _ hi] at hne⟩

/-- The tests of the decoder, each failing, are the conditions of R72. -/
theorem frameImageValid_iff {idw : Word32} {lenb : Byte} {pay : List Byte} (hpay : pay.length = 8) :
    FrameImageValid idw lenb pay ↔
      ¬ idw.getLsbD 30 = true ∧ ¬ lenb.extractLsb' 4 4 ≠ 0#4 ∧ ¬ Config.maxLen < (lenb.extractLsb' 0 4).toNat ∧
        ¬ (idw.getLsbD 31 = false ∧ idw.extractLsb' 11 18 ≠ 0#18) ∧
        ¬ (pay.drop (lenb.extractLsb' 0 4).toNat).any (fun d => d != 0#8) = true := by
  simp only [highNibble_eq_zero_iff, idwHigh_eq_zero_iff, any_drop_ne_zero_iff, lowNibble_toNat, Config.maxLen, hpay,
    Bool.not_eq_true, not_and, not_exists, not_not, Nat.not_lt]
  exact ⟨fun ⟨hbit, hhigh, hmax, hid, hpads⟩ => ⟨hbit, hhigh, hmax, hid, fun i hn hi => hpads i hn (by omega)⟩,
    fun ⟨hbit, hhigh, hmax, hid, hpads⟩ => ⟨hbit, hhigh, hmax, hid, fun i hn hi => hpads i hn (by omega)⟩⟩

/-- The fields that R72 reads off an identifier word, `LENB` and the payload bytes. -/
def frameOfImage (idw : Word32) (lenb : Byte) (pay : List Byte) : Frame :=
  { id := idw.extractLsb' 0 29, ext := idw.getLsbD 31, rtr := idw.getLsbD 29, len := lenb.extractLsb' 0 4,
    data := pay.take (lenb.extractLsb' 0 4).toNat }

/-- A string of 13 bytes decodes exactly when it meets the conditions of R72, to the frame of its fields. -/
theorem decodeFrame_bytes_eq_ok_iff {b0 b1 b2 b3 lenb d0 d1 d2 d3 d4 d5 d6 d7 : Byte} {fr : Frame} :
    decodeFrame [b0, b1, b2, b3, lenb, d0, d1, d2, d3, d4, d5, d6, d7] = .ok fr ↔
      FrameImageValid (wordOfBytes b0 b1 b2 b3) lenb [d0, d1, d2, d3, d4, d5, d6, d7] ∧
        frameOfImage (wordOfBytes b0 b1 b2 b3) lenb [d0, d1, d2, d3, d4, d5, d6, d7] = fr := by
  rw [frameImageValid_iff rfl]
  constructor
  · intro h
    simp only [decodeFrame] at h
    split_ifs at h with hbit hhigh hmax hid hpads
    exact ⟨⟨hbit, hhigh, hmax, hid, hpads⟩, Except.ok.inj h⟩
  · rintro ⟨⟨hbit, hhigh, hmax, hid, hpads⟩, rfl⟩
    simp only [decodeFrame, if_neg hbit, if_neg hhigh, if_neg hmax, if_neg hid, if_neg hpads]
    rfl

/-- A string of another length than 13 is no frame image (30_encoding R72). -/
theorem decodeFrame_of_length_ne {bytes : List Byte} (h : bytes.length ≠ 13) :
    decodeFrame bytes = .error .wrongLength := by
  unfold decodeFrame
  split
  · exact absurd rfl h
  · rfl

theorem exists_bytes_of_decodeFrame_eq_ok {bytes : List Byte} {fr : Frame} (h : decodeFrame bytes = .ok fr) :
    ∃ b0 b1 b2 b3 lenb d0 d1 d2 d3 d4 d5 d6 d7, bytes = [b0, b1, b2, b3, lenb, d0, d1, d2, d3, d4, d5, d6, d7] := by
  unfold decodeFrame at h
  split at h
  · exact ⟨_, _, _, _, _, _, _, _, _, _, _, _, _, rfl⟩
  · cases h

/-! ### The frame of a valid image: it is well-formed, and its image is the string -/

theorem frameWF_frameOfImage {idw : Word32} {lenb : Byte} {pay : List Byte} (hpay : pay.length = 8)
    (h : FrameImageValid idw lenb pay) : frameWF (frameOfImage idw lenb pay) = true := by
  have hmax : (lenb.extractLsb' 0 4).toNat ≤ 8 := lowNibble_toNat lenb ▸ h.lenMax
  refine (frameWF_iff _).2 ⟨hmax, ?_, ?_⟩
  · simp only [frameOfImage, List.length_take, hpay]
    omega
  · cases hext : idw.getLsbD 31 with
    | true =>
      simp only [frameOfImage, hext, widthOf_true]
      exact BitVec.isLt _
    | false =>
      have hhigh := h.idFits hext
      simp only [frameOfImage, hext, widthOf_false, BitVec.extractLsb'_toNat, Nat.shiftRight_zero]
      omega

/-- The identifier word of R71 is rebuilt from its fields when its reserved bit is 0. -/
theorem frameIdWord_frameOfImage {idw : Word32} {lenb : Byte} {pay : List Byte} (h : idw.toNat.testBit 30 = false) :
    frameIdWord (frameOfImage idw lenb pay) = idw := by
  have h30 : idw.getLsbD 30 = false := h
  apply BitVec.eq_of_getLsbD_eq
  intro i hi
  rw [frameIdWord_getLsbD]
  simp only [frameOfImage, BitVec.getLsbD_extractLsb', Nat.zero_add]
  by_cases hlow : i < 29
  · simp [hlow, show i ≠ 31 by omega, show i ≠ 29 by omega]
  · obtain rfl | rfl | rfl : i = 29 ∨ i = 30 ∨ i = 31 := by omega
    · simp
    · rw [h30]
      simp
    · simp

/-- Stored with zero pads, the payload of a valid image is its eight payload bytes (92_eei_decisions D19). -/
theorem payloadByte_frameOfImage {idw : Word32} {lenb : Byte} {pay : List Byte} (h : FrameImageValid idw lenb pay)
    {i : Nat} (hi : i ≤ 7) : payloadByte (frameOfImage idw lenb pay) i = pay.getD i 0#8 := by
  have hlen : (frameOfImage idw lenb pay).len.toNat = lenb.toNat % 16 := lowNibble_toNat lenb
  by_cases hlt : i < lenb.toNat % 16
  · rw [payloadByte_of_lt _ _ (by omega)]
    simp [frameOfImage, List.getD_eq_getElem?_getD, hlt]
  · rw [payloadByte_of_ge _ _ (by omega), h.padsZero i (by omega) hi]

/-- The image of the frame that a valid image spells is that image (30_encoding R72). -/
theorem encodeFrame_frameOfImage {b0 b1 b2 b3 lenb d0 d1 d2 d3 d4 d5 d6 d7 : Byte}
    (h : FrameImageValid (wordOfBytes b0 b1 b2 b3) lenb [d0, d1, d2, d3, d4, d5, d6, d7]) :
    encodeFrame (frameOfImage (wordOfBytes b0 b1 b2 b3) lenb [d0, d1, d2, d3, d4, d5, d6, d7]) =
      [b0, b1, b2, b3, lenb, d0, d1, d2, d3, d4, d5, d6, d7] := by
  have hlenb := lenByte_of_low_nibble lenb ((highNibble_eq_zero_iff lenb).2 h.lenHigh)
  simp only [encodeFrame, frameIdWord_frameOfImage h.reservedBit, bytesOfWord_wordOfBytes, payloadByte_frameOfImage h,
    Nat.reduceLeDiff]
  simp [frameOfImage, hlenb]

/-! ### The image of a well-formed frame: it is valid, and its fields are the frame -/

/-- Stored payload byte `i` of `HF` loaded with a frame (10_state R32). -/
theorem heldBytes_loadHeld_getD (fr : Frame) {i : Nat} (hi : i ≤ 7) :
    (heldBytes (loadHeld fr)).getD i 0#8 = payloadByte fr i := by
  interval_cases i <;> rfl

theorem frameIdWord_idwHigh {fr : Frame} (h : fr.id.toNat < 2 ^ 11) :
    (frameIdWord fr).extractLsb' 11 18 = 0#18 := by
  apply BitVec.eq_of_getLsbD_eq
  intro i hi
  have hid : fr.id.getLsbD (11 + i) = false :=
    Nat.testBit_lt_two_pow (h.trans_le (Nat.pow_le_pow_right (by omega) (by omega)))
  simp [frameIdWord_getLsbD, hid, show 11 + i ≠ 31 by omega, show 11 + i ≠ 29 by omega]

theorem frameIdWord_ext (fr : Frame) : (frameIdWord fr).getLsbD 31 = fr.ext := by
  rw [frameIdWord_getLsbD, BitVec.getLsbD_of_ge fr.id 31 (by omega)]
  simp

theorem frameIdWord_rtr (fr : Frame) : (frameIdWord fr).getLsbD 29 = fr.rtr := by
  rw [frameIdWord_getLsbD, BitVec.getLsbD_of_ge fr.id 29 (by omega)]
  simp

theorem frameIdWord_reserved (fr : Frame) : (frameIdWord fr).getLsbD 30 = false := by
  rw [frameIdWord_getLsbD, BitVec.getLsbD_of_ge fr.id 30 (by omega)]
  simp

theorem frameIdWord_id (fr : Frame) : (frameIdWord fr).extractLsb' 0 29 = fr.id := by
  apply BitVec.eq_of_getLsbD_eq
  intro i hi
  simp [frameIdWord_getLsbD, hi, show i ≠ 31 by omega, show i ≠ 29 by omega]

theorem frameImageValid_encode {fr : Frame} (h : frameWF fr = true) :
    FrameImageValid (frameIdWord fr) (fr.len.setWidth 8) (heldBytes (loadHeld fr)) := by
  obtain ⟨hmax, -, hwidth⟩ := (frameWF_iff fr).1 h
  have hlenb : (fr.len.setWidth 8).toNat = fr.len.toNat := BitVec.toNat_setWidth_of_le (by omega)
  refine ⟨frameIdWord_reserved fr, by omega, by omega, fun hext => ?_, fun i hn hi => ?_⟩
  · rw [show fr.ext = false from (frameIdWord_ext fr).symm.trans hext] at hwidth
    exact (idwHigh_eq_zero_iff _).1 (frameIdWord_idwHigh hwidth)
  · rw [heldBytes_loadHeld_getD fr hi, payloadByte_of_ge fr i (by omega)]

theorem frameOfImage_encode {fr : Frame} (h : frameWF fr = true) :
    frameOfImage (frameIdWord fr) (fr.len.setWidth 8) (heldBytes (loadHeld fr)) = fr := by
  obtain ⟨hmax, hdata, -⟩ := (frameWF_iff fr).1 h
  simp only [frameOfImage, frameIdWord_id, frameIdWord_ext, frameIdWord_rtr, (lenByte_nibbles fr.len).2, heldBytes,
    loadHeld, storedBytes_take fr hmax hdata]

/-- The frame images are exactly the images of the well-formed frames (30_encoding R72). -/
theorem decodeFrame_eq_ok_iff {bytes : List Byte} {fr : Frame} :
    decodeFrame bytes = .ok fr ↔ encodeFrame fr = bytes ∧ frameWF fr = true := by
  constructor
  · intro h
    obtain ⟨b0, b1, b2, b3, lenb, d0, d1, d2, d3, d4, d5, d6, d7, rfl⟩ := exists_bytes_of_decodeFrame_eq_ok h
    obtain ⟨hvalid, rfl⟩ := decodeFrame_bytes_eq_ok_iff.1 h
    exact ⟨encodeFrame_frameOfImage hvalid, frameWF_frameOfImage rfl hvalid⟩
  · rintro ⟨rfl, h⟩
    refine decodeFrame_bytes_eq_ok_iff.2 ?_
    rw [wordOfBytes_bytesOfWord]
    exact ⟨frameImageValid_encode h, frameOfImage_encode h⟩

/-! ### Entry words and table images (30_encoding R73, R74) -/

/-- An entry word's reserved bits [30:29] are 0, and its fields make it up (30_encoding R73). -/
theorem decodeEntryWord_eq_ok_iff {w : Word32} {e : Entry} : decodeEntryWord w = .ok e ↔ entryWord e = w := by
  constructor
  · intro h
    unfold decodeEntryWord at h
    split at h
    next hreserved =>
      cases h
      apply BitVec.eq_of_getLsbD_eq
      intro i hi
      simp only [entryWord_getLsbD, BitVec.getLsbD_extractLsb', Nat.zero_add]
      by_cases hlow : i < 29
      · simp [hlow, show i ≠ 31 by omega]
      · have hbit (k : Nat) (hk : k < 2) : w.getLsbD (29 + k) = false := by
          simpa [hk] using congrArg (fun v => v.getLsbD k) hreserved
        obtain rfl | rfl | rfl : i = 29 ∨ i = 30 ∨ i = 31 := by omega
        · rw [hbit 0 (by omega)]
          simp
        · rw [hbit 1 (by omega)]
          simp
        · simp
    next => cases h
  · rintro rfl
    exact decodeEntryWord_entryWord e

/-- Entry `j` of a table image is the entry whose image stands at offset `4j` (30_encoding R74). -/
theorem decodeEntryAt_eq_ok_iff {bytes : List Byte} {j : Nat} {e : Entry} :
    decodeEntryAt bytes j = .ok e ↔ (bytes.drop (4 * j)).take 4 = encodeEntry e := by
  unfold decodeEntryAt
  split
  next b0 b1 b2 b3 rest heq =>
    rw [heq, decodeEntryWord_eq_ok_iff, encodeEntry]
    constructor
    · intro h
      rw [h, bytesOfWord_wordOfBytes]
      rfl
    · intro h
      have hbytes : bytesOfWord (entryWord e) = [b0, b1, b2, b3] := h.symm
      simp only [bytesOfWord, List.cons.injEq, and_true] at hbytes
      obtain ⟨rfl, rfl, rfl, rfl⟩ := hbytes
      exact (wordOfBytes_bytesOfWord _).symm
  next hshort =>
    refine ⟨fun h => (nomatch h), fun h => ?_⟩
    match hd : bytes.drop (4 * j), h with
    | b0 :: b1 :: b2 :: b3 :: rest, _ => exact absurd hd (hshort b0 b1 b2 b3 rest)

/-- Bytes cut into fours at the same offsets are the same bytes. -/
theorem eq_of_chunks_eq {xs ys : List Byte} {n : Nat} (hx : xs.length = 4 * n) (hy : ys.length = 4 * n)
    (h : ∀ j, j < n → (xs.drop (4 * j)).take 4 = (ys.drop (4 * j)).take 4) : xs = ys := by
  refine List.ext_getElem? fun k => ?_
  by_cases hk : k < 4 * n
  · have hchunk := congrArg (·[k % 4]?) (h (k / 4) (by omega))
    have hmod : k % 4 < 4 := Nat.mod_lt _ (by omega)
    simpa [List.getElem?_take, hmod, List.getElem?_drop, Nat.div_add_mod] using hchunk
  · rw [List.getElem?_eq_none (by omega), List.getElem?_eq_none (by omega)]

theorem encodeTable_chunk {t : Table} {j : Nat} {e : Entry} (h : (tableEntries t)[j]? = some e) :
    ((encodeTable t).drop (4 * j)).take 4 = encodeEntry e := by
  have hj := lt_of_getElem?_tableEntries h
  interval_cases j <;> (cases h; rfl)

/-- The table images are exactly the images of the tables, well-formed or not (30_encoding R73, R74). -/
theorem decodeTable_eq_ok_iff {bytes : List Byte} {t : Table} : decodeTable bytes = .ok t ↔ encodeTable t = bytes := by
  constructor
  · intro h
    unfold decodeTable at h
    split at h
    next hlen =>
      refine eq_of_chunks_eq (n := 8) rfl hlen fun j hj => ?_
      have he := List.getElem?_eq_getElem (l := tableEntries t) hj
      rw [encodeTable_chunk he, decodeEntryAt_eq_ok_iff.1 (tableFrom_eq_ok_iff_entries.1 h j _ he)]
    next => cases h
  · rintro rfl
    have hlen : (encodeTable t).length = 32 := rfl
    rw [decodeTable, if_pos hlen]
    exact tableFrom_eq_ok_iff_entries.2 fun j e he => decodeEntryAt_eq_ok_iff.2 (encodeTable_chunk he)

/-! ### Whole items: decoding and encoding (30_encoding R75, R76, R79, R80) -/

/-- Settles O2: by the instruction; the operand images carry the operands. -/
theorem decodeEncodeRoundTrip : Obligations.DecodeEncodeRoundTrip := by
  intro i hwf
  cases i with
  | initBus n => exact congrArg (fun w => Except.ok (Instr.initBus w)) (wordOfBytes_bytesOfWord n)
  | configureFilters t => exact congrArg (Except.map Instr.configureFilters) (decodeTable_eq_ok_iff.2 rfl)
  | transmitFrame fr => exact congrArg (Except.map Instr.transmitFrame) (decodeFrame_eq_ok_iff.2 ⟨rfl, hwf⟩)
  | rxOffer fr => exact congrArg (Except.map Instr.rxOffer) (decodeFrame_eq_ok_iff.2 ⟨rfl, hwf⟩)
  | diagSet b => cases b <;> rfl
  | frameAvailable | receiveFrame | diagToggle | reset => rfl
  | sqInit | sqCfg | sqStx | sqPoll | sqFetch | sqXform | sqTx | sqHalt => rfl

/-- A word of one byte decodes only when nothing follows that byte (30_encoding R82). -/
theorem eq_nil_of_ite_eq_ok {rest : List Byte} {i j : Instr} {e : DecodeError}
    (h : (if rest = [] then .ok i else .error e) = Except.ok j) : rest = [] ∧ i = j := by
  split at h
  next hnil => exact ⟨hnil, Except.ok.inj h⟩
  next => cases h

theorem encode_of_decodeCommand_eq_ok {bytes : List Byte} {i : Instr} (h : decodeCommand bytes = .ok i) :
    encode i = .command bytes ∧ i.wf = true := by
  unfold decodeCommand at h
  split at h
  next => cases h
  next op rest =>
    split at h
    next hop =>
      obtain rfl : op = 0x01#8 := BitVec.eq_of_toNat_eq hop
      split at h
      next b0 b1 b2 b3 =>
        cases h
        exact ⟨by rw [encode, bytesOfWord_wordOfBytes], rfl⟩
      next => cases h
    next hop =>
      obtain rfl : op = 0x02#8 := BitVec.eq_of_toNat_eq hop
      obtain ⟨t, ht, rfl⟩ := map_eq_ok h
      exact ⟨by rw [encode, decodeTable_eq_ok_iff.1 ht], rfl⟩
    next hop =>
      obtain rfl : op = 0x03#8 := BitVec.eq_of_toNat_eq hop
      obtain ⟨rfl, rfl⟩ := eq_nil_of_ite_eq_ok h
      exact ⟨rfl, rfl⟩
    next hop =>
      obtain rfl : op = 0x04#8 := BitVec.eq_of_toNat_eq hop
      obtain ⟨rfl, rfl⟩ := eq_nil_of_ite_eq_ok h
      exact ⟨rfl, rfl⟩
    next hop =>
      obtain rfl : op = 0x05#8 := BitVec.eq_of_toNat_eq hop
      obtain ⟨fr, hfr, rfl⟩ := map_eq_ok h
      obtain ⟨himage, hwf⟩ := decodeFrame_eq_ok_iff.1 hfr
      exact ⟨by rw [encode, himage], hwf⟩
    next hop =>
      obtain rfl : op = 0x06#8 := BitVec.eq_of_toNat_eq hop
      split at h
      next b =>
        split_ifs at h with h0 h1
        · cases h
          exact ⟨by rw [h0]; rfl, rfl⟩
        · cases h
          exact ⟨by rw [h1]; rfl, rfl⟩
      next => cases h
    next hop =>
      obtain rfl : op = 0x07#8 := BitVec.eq_of_toNat_eq hop
      obtain ⟨rfl, rfl⟩ := eq_nil_of_ite_eq_ok h
      exact ⟨rfl, rfl⟩
    next => cases h

theorem encode_of_decodeEvent_eq_ok {bytes : List Byte} {i : Instr} (h : decodeEvent bytes = .ok i) :
    encode i = .event bytes ∧ i.wf = true := by
  unfold decodeEvent at h
  split at h
  next => cases h
  next ev rest =>
    split at h
    next hev =>
      obtain rfl : ev = 0x80#8 := BitVec.eq_of_toNat_eq hev
      obtain ⟨rfl, rfl⟩ := eq_nil_of_ite_eq_ok h
      exact ⟨rfl, rfl⟩
    next hev =>
      obtain rfl : ev = 0x81#8 := BitVec.eq_of_toNat_eq hev
      obtain ⟨fr, hfr, rfl⟩ := map_eq_ok h
      obtain ⟨himage, hwf⟩ := decodeFrame_eq_ok_iff.1 hfr
      exact ⟨by rw [encode, himage], hwf⟩
    next => cases h

/-- Every sequencer code is the code of the state it selects (30_encoding R80). -/
theorem encode_microOp_seqOfCode (c : BitVec 3) : encode (microOp (seqOfCode c)) = .seqCode c := by
  revert c
  decide

theorem wf_microOp (q : SeqState) : (microOp q).wf = true := by
  cases q <;> rfl

/-- Settles O3: by the code space of the item. -/
theorem decodedItemsReencode : Obligations.DecodedItemsReencode := by
  intro w i h
  cases w with
  | command bytes => exact encode_of_decodeCommand_eq_ok h
  | event bytes => exact encode_of_decodeEvent_eq_ok h
  | seqCode c =>
    cases h
    exact ⟨encode_microOp_seqOfCode c, wf_microOp _⟩

theorem decode_of_encode_eq {w : CodeWord} {i : Instr} (hw : encode i = w) (hwf : i.wf = true) : decode w = .ok i :=
  hw ▸ decodeEncodeRoundTrip i hwf

/-- Settles O1: the seven words are the encodings of the seven instructions, which are well-formed. -/
theorem knownWordsDecode : Obligations.KnownWordsDecode :=
  ⟨decode_of_encode_eq rfl rfl, decode_of_encode_eq rfl rfl, decode_of_encode_eq rfl rfl, decode_of_encode_eq rfl rfl,
    decode_of_encode_eq rfl rfl, decode_of_encode_eq rfl rfl, decode_of_encode_eq rfl rfl⟩

/-! ### R72 in full -/

theorem exists_error_of_ne_ok {ε α : Type} {x : Except ε α} (h : ∀ a, x ≠ .ok a) : ∃ e, x = .error e := by
  cases x with
  | ok a => exact absurd rfl (h a)
  | error e => exact ⟨e, rfl⟩

/-- An operation or event that carries an invalid frame image is refused for the image's reason (30_encoding R72). -/
theorem decode_of_decodeFrame_eq_error {bytes : List Byte} {e : DecodeError} (h : decodeFrame bytes = .error e) :
    decode (.command (0x05#8 :: bytes)) = .error e ∧ decode (.event (0x81#8 :: bytes)) = .error e :=
  ⟨congrArg (Except.map Instr.transmitFrame) h, congrArg (Except.map Instr.rxOffer) h⟩

/-- Settles O4: R72's conditions are `FrameImageValid`, on which the decoder of 13 bytes turns. -/
theorem frameImagesAreExactlyTheValidStrings : Obligations.FrameImagesAreExactlyTheValidStrings := by
  refine ⟨fun b0 b1 b2 b3 lenb d0 d1 d2 d3 d4 d5 d6 d7 => ?_, fun bytes h => ⟨_, decodeFrame_of_length_ne h⟩,
    fun fr h => decodeFrame_eq_ok_iff.2 ⟨rfl, h⟩⟩
  rw [leNat_four]
  refine ⟨fun ⟨hbit, hhigh, hmax, hid, hpads⟩ => ?_, fun hinvalid => ?_⟩
  · have hvalid : FrameImageValid (wordOfBytes b0 b1 b2 b3) lenb [d0, d1, d2, d3, d4, d5, d6, d7] :=
      ⟨hbit, hhigh, hmax, hid, hpads⟩
    exact ⟨_, decodeFrame_bytes_eq_ok_iff.2 ⟨hvalid, rfl⟩, rfl, rfl, BitVec.extractLsb'_toNat _ _ _,
      lowNibble_toNat lenb, congrArg (List.take · _) (lowNibble_toNat lenb), frameWF_frameOfImage rfl hvalid,
      encodeFrame_frameOfImage hvalid⟩
  · obtain ⟨e, he⟩ := exists_error_of_ne_ok fun fr hok =>
      have ⟨⟨hbit, hhigh, hmax, hid, hpads⟩, _⟩ := decodeFrame_bytes_eq_ok_iff.1 hok
      hinvalid ⟨hbit, hhigh, hmax, hid, hpads⟩
    exact ⟨e, he, decode_of_decodeFrame_eq_error he⟩

/-! ### The first byte: reserved values and the length it fixes (30_encoding R81, R82) -/

theorem decodeCommand_of_reserved {op : Byte} (rest : List Byte) (h : op.toNat = 0 ∨ 8 ≤ op.toNat) :
    decodeCommand (op :: rest) = .error (.reservedOperation op) := by
  simp only [decodeCommand]
  split
  case h_8 => rfl
  all_goals omega

theorem decodeEvent_of_reserved {ev : Byte} (rest : List Byte) (h80 : ev ≠ 0x80#8) (h81 : ev ≠ 0x81#8) :
    decodeEvent (ev :: rest) = .error (.reservedEvent ev) := by
  simp only [decodeEvent]
  split
  next h => exact absurd (BitVec.eq_of_toNat_eq h) h80
  next h => exact absurd (BitVec.eq_of_toNat_eq h) h81
  next => rfl

/-- A byte of at least 2 is neither of the two values of a Boolean byte (30_encoding R76, R77). -/
theorem ne_zero_and_ne_one_of_two_le {b : Byte} (h : 2 ≤ b.toNat) : b ≠ 0#8 ∧ b ≠ 1#8 := by
  constructor <;> rintro rfl <;> exact absurd h (by decide)

theorem decodeStatusByte_of_reserved {b : Byte} (h : 6 ≤ b.toNat) :
    decodeStatusByte b = .error (.reservedResponse b) := by
  unfold decodeStatusByte
  split
  case h_7 => rfl
  all_goals omega

/-- Settles O5: each decoder's last branch. -/
theorem reservedEncodingsAreInvalid : Obligations.ReservedEncodingsAreInvalid := by
  refine ⟨fun op rest h => decodeCommand_of_reserved rest (h.imp_left (congrArg BitVec.toNat)),
    fun ev rest => decodeEvent_of_reserved rest, fun b h => ?_, fun b => decodeStatusByte_of_reserved, fun b rest h => ?_,
    fun b h => ?_⟩
  · obtain ⟨h0, h1⟩ := ne_zero_and_ne_one_of_two_le h
    simp [decode, decodeCommand, h0, h1]
  · rw [decodeRF, decodeStatusByte_of_reserved h]
  · obtain ⟨h0, h1⟩ := ne_zero_and_ne_one_of_two_le h
    simp [decodeRB, h0, h1]

/-- Settles O6: what decodes is an encoding (O3), and each instruction's encoding has its row's first byte and length. -/
theorem firstByteFixesTheLength : Obligations.FirstByteFixesTheLength := by
  constructor
  · intro b bs i h
    obtain ⟨hword, -⟩ := decodedItemsReencode _ _ h
    cases i with
    | initBus n => cases hword; exact .inl ⟨rfl, rfl⟩
    | configureFilters t => cases hword; exact .inr (.inl ⟨rfl, rfl⟩)
    | frameAvailable => cases hword; exact .inr (.inr (.inl ⟨rfl, rfl⟩))
    | receiveFrame => cases hword; exact .inr (.inr (.inr (.inl ⟨rfl, rfl⟩)))
    | transmitFrame fr => cases hword; exact .inr (.inr (.inr (.inr (.inl ⟨rfl, rfl⟩))))
    | diagSet b => cases hword; exact .inr (.inr (.inr (.inr (.inr (.inl ⟨rfl, rfl⟩)))))
    | diagToggle => cases hword; exact .inr (.inr (.inr (.inr (.inr (.inr ⟨rfl, rfl⟩)))))
    | _ => cases hword
  · intro b bs i h
    obtain ⟨hword, -⟩ := decodedItemsReencode _ _ h
    cases i with
    | reset => cases hword; exact .inl ⟨rfl, rfl⟩
    | rxOffer fr => cases hword; exact .inr ⟨rfl, rfl⟩
    | _ => cases hword

/-! ### Response words (30_encoding R77) -/

theorem decodeStatusByte_statusByte (r : Status) : decodeStatusByte (statusByte r) = .ok r := by
  cases r with
  | ok => rfl
  | fault c => cases c <;> rfl

/-- Settles O7: every form begins with a status byte or is one Boolean byte. -/
theorem responseWordsRoundTrip : Obligations.ResponseWordsRoundTrip := by
  refine ⟨decodeStatusByte_statusByte, fun r => by cases r <;> rfl, fun c => ?_, fun fr h => ?_⟩
  · have hbyte : decodeStatusByte (faultByte c) = .ok (.fault c) := decodeStatusByte_statusByte (.fault c)
    simp [encodeRF, decodeRF, hbyte]
  · exact congrArg (Except.map FetchResponse.ok) (decodeFrame_eq_ok_iff.2 ⟨rfl, h⟩)

end Sys2Proof.Machine

/-! # The acceptance filter: `MATCH`, `GROUP_ACCEPT` and `ACCEPT` (40_acceptance_filter R100 to R103, R107, R108) -/

namespace Sys2Proof.Machine

/-! ### One filter (R101) -/

/-- `MATCH` as its two tests: the width class, and the compared field read as a number. -/
theorem matchFilter_eq_true {t : Table} {fr : Frame} {k : Fin 6} :
    matchFilter t fr k = true ↔
      fr.ext = (filterEntry t k).x ∧
        ((fr.id ^^^ (filterEntry t k).v) &&& (maskEntry t (grp k)).v).toNat % 2 ^ widthOf (filterEntry t k).x = 0 := by
  unfold matchFilter
  by_cases hext : fr.ext = (filterEntry t k).x <;> simp [hext]

/-- A bit of the compared field is clear exactly when the mask ignores it or both sides agree in it. -/
theorem getLsbD_xor_and_eq_false {w : Nat} (a b m : BitVec w) (n : Nat) :
    ((a ^^^ b) &&& m).getLsbD n = false ↔ m.getLsbD n = false ∨ a.getLsbD n = b.getLsbD n := by
  rw [BitVec.getLsbD_and, BitVec.getLsbD_xor, Bool.and_eq_false_iff, bne_eq_false_iff_eq, or_comm]

/-- Settles O11: the field is zero as a number exactly when each of its bits is clear. -/
theorem matchComparesBitByBit : Obligations.MatchComparesBitByBit := by
  intro t fr k
  rw [matchFilter_eq_true, low_bits_zero_iff]
  simp only [getLsbD_xor_and_eq_false]

theorem xor_and_right_distrib {w : Nat} (a b m : BitVec w) : (a ^^^ b) &&& m = (a &&& m) ^^^ (b &&& m) := by
  ext i
  simp only [BitVec.getElem_and, BitVec.getElem_xor, Bool.and_xor_distrib_right]

/-- Under a mask that fits its width class `MATCH` compares the masked identifiers. -/
theorem matchFilter_iff_of_mask_fits {t : Table} {fr : Frame} {k : Fin 6}
    (hmask : (maskEntry t (grp k)).v.toNat < 2 ^ widthOf (filterEntry t k).x) :
    matchFilter t fr k = true ↔
      fr.ext = (filterEntry t k).x ∧
        fr.id &&& (maskEntry t (grp k)).v = (filterEntry t k).v &&& (maskEntry t (grp k)).v := by
  have hlt : ((fr.id ^^^ (filterEntry t k).v) &&& (maskEntry t (grp k)).v).toNat < 2 ^ widthOf (filterEntry t k).x := by
    rw [BitVec.toNat_and]
    exact Nat.and_lt_two_pow _ hmask
  rw [matchFilter_eq_true, Nat.mod_eq_of_lt hlt, ← BitVec.xor_eq_zero_iff, ← xor_and_right_distrib]
  exact and_congr_right fun _ => BitVec.toNat_inj (y := 0#29)

/-! ### One group, and both (R102, R103) -/

theorem grp_eq_zero_iff {k : Fin 6} : grp k = 0 ↔ k = 0 ∨ k = 1 := by decide +revert

theorem grp_eq_one_iff {k : Fin 6} : grp k = 1 ↔ k = 2 ∨ k = 3 ∨ k = 4 ∨ k = 5 := by decide +revert

theorem grp_eq_zero_or_one (k : Fin 6) : grp k = 0 ∨ grp k = 1 := by decide +revert

theorem exists_grp_eq (g : Fin 2) : ∃ k : Fin 6, grp k = g := by decide +revert

/-- Settles O12: the two groups are `grp`'s. -/
theorem groupAcceptsOnAnyOfItsFilters : Obligations.GroupAcceptsOnAnyOfItsFilters := by
  intro t fr g
  match g with
  | 0 => simp only [groupAccept, Bool.or_eq_true, grp_eq_zero_iff, or_and_right, exists_or, exists_eq_left]
  | 1 => simp only [groupAccept, Bool.or_eq_true, grp_eq_one_iff, or_and_right, exists_or, exists_eq_left, or_assoc]

/-- `ACCEPT` holds exactly when some filter matches, of whichever group (R103). -/
theorem accept_iff_exists_match {t : Table} {fr : Frame} :
    accept t fr = true ↔ ∃ k : Fin 6, matchFilter t fr k = true := by
  rw [accept, Bool.or_eq_true, groupAcceptsOnAnyOfItsFilters t fr 0, groupAcceptsOnAnyOfItsFilters t fr 1, ← exists_or]
  refine exists_congr fun k => ?_
  rw [← or_and_right, and_iff_right (grp_eq_zero_or_one k)]

/-- Settles O13: no filter reads anything else of the frame. -/
theorem filterReadsOnlyWidthAndIdentifier : Obligations.FilterReadsOnlyWidthAndIdentifier := by
  intro t fr fr' hext hid
  rw [Bool.eq_iff_iff, accept_iff_exists_match, accept_iff_exists_match]
  refine exists_congr fun k => ?_
  rw [matchFilter_eq_true, matchFilter_eq_true, hext, hid]

/-! ### Well-formed tables (00_scope R12) -/

theorem entryFits_iff (e : Entry) : entryFits e = true ↔ e.v.toNat < 2 ^ (if e.x then 29 else 11) :=
  decide_eq_true_iff

theorem filterWF_iff {t : Table} {k : Fin 6} :
    filterWF t k = true ↔ (filterEntry t k).x = (maskEntry t (grp k)).x ∧ entryFits (filterEntry t k) = true := by
  rw [filterWF, Bool.and_eq_true, decide_eq_true_iff]

/-- `TableWF` by the indices of its entries. -/
theorem tableWF_iff {t : Table} :
    tableWF t = true ↔ (∀ k, filterWF t k = true) ∧ ∀ g, entryFits (maskEntry t g) = true := by
  simp only [tableWF, Bool.and_eq_true, Fin.forall_fin_succ, and_assoc]
  simp [maskEntry]

/-! ### A mask of zeros (R107) -/

theorem matchFilter_of_zero_mask {t : Table} {fr : Frame} {k : Fin 6} (hmask : (maskEntry t (grp k)).v = 0#29) :
    matchFilter t fr k = true ↔ fr.ext = (filterEntry t k).x := by
  simp [matchFilter_eq_true, hmask]

/-- Settles O14: each filter then accepts its width class, and `TableWF` gives all of the group the mask's tag. -/
theorem zeroMaskAcceptsItsWidthClass : Obligations.ZeroMaskAcceptsItsWidthClass := by
  intro s fr g hcfgd hwf hmask
  have htag : ∀ k, grp k = g → (filterEntry s.filters k).x = (maskEntry s.filters g).x := by
    rintro k rfl
    exact (filterWF_iff.1 ((tableWF_iff.1 hwf).1 k)).1
  have hmatch : ∀ k, grp k = g → (matchFilter s.filters fr k = true ↔ fr.ext = (maskEntry s.filters g).x) := by
    intro k hk
    rw [matchFilter_of_zero_mask (by rw [hk, hmask]), htag k hk]
  obtain ⟨k₀, hk₀⟩ := exists_grp_eq g
  calc groupAccept s.filters fr g = true
      ↔ ∃ k, grp k = g ∧ matchFilter s.filters fr k = true := groupAcceptsOnAnyOfItsFilters _ _ _
    _ ↔ fr.ext = (maskEntry s.filters g).x :=
        ⟨fun ⟨k, hk, hm⟩ => (hmatch k hk).1 hm, fun h => ⟨k₀, hk₀, (hmatch k₀ hk₀).2 h⟩⟩
    _ ↔ groupTag s g = some fr.ext := by simp [groupTag, hcfgd, eq_comm]

/-! ### The deployment table (R108) -/

/-- Filters 0 and 1 of the deployment table: value 0x000 under mask 0x7F3. -/
theorem matchFilter_table_group_zero {fr : Frame} {k : Fin 6} (hk : grp k = 0) :
    matchFilter Config.table fr k = true ↔ fr.ext = false ∧ fr.id &&& 0x7F3#29 = 0x000#29 := by
  obtain rfl | rfl := grp_eq_zero_iff.1 hk <;> exact matchFilter_iff_of_mask_fits (by decide)

/-- Filters 2 to 5 of the deployment table: value 0x0FF under mask 0x7FF. -/
theorem matchFilter_table_group_one {fr : Frame} {k : Fin 6} (hk : grp k = 1) :
    matchFilter Config.table fr k = true ↔ fr.ext = false ∧ fr.id &&& 0x7FF#29 = 0x0FF#29 := by
  obtain rfl | rfl | rfl | rfl := grp_eq_one_iff.1 hk <;> exact matchFilter_iff_of_mask_fits (by decide)

/-- The deployment table's decision in its two masked comparisons. -/
theorem accept_table_iff {fr : Frame} :
    accept Config.table fr = true ↔
      fr.ext = false ∧ (fr.id &&& 0x7F3#29 = 0x000#29 ∨ fr.id &&& 0x7FF#29 = 0x0FF#29) := by
  rw [accept_iff_exists_match, and_or_left]
  constructor
  · rintro ⟨k, hmatch⟩
    exact (grp_eq_zero_or_one k).imp
      (fun hk => (matchFilter_table_group_zero hk).1 hmatch)
      (fun hk => (matchFilter_table_group_one hk).1 hmatch)
  · rintro (h | h)
    · exact ⟨0, (matchFilter_table_group_zero rfl).2 h⟩
    · exact ⟨2, (matchFilter_table_group_one rfl).2 h⟩

/-- A standard identifier has no bit above the lowest eleven. -/
theorem and_standard_mask {id : Ident} (h : id.toNat < 2 ^ 11) : id &&& 0x7FF#29 = id := by
  apply BitVec.eq_of_toNat_eq
  rw [BitVec.toNat_and]
  exact (Nat.and_two_pow_sub_one_eq_mod id.toNat 11).trans (Nat.mod_eq_of_lt h)

/-- Mask 0x7F3 leaves bits 2 and 3 of a standard identifier free, so value 0x000 stands for four identifiers. -/
theorem and_0x7F3_eq_zero_iff {id : Ident} (h : id.toNat < 2 ^ 11) :
    id &&& 0x7F3#29 = 0x000#29 ↔ id = 0x000#29 ∨ id = 0x004#29 ∨ id = 0x008#29 ∨ id = 0x00C#29 := by
  constructor
  · intro hzero
    have hfree : id &&& 0x00C#29 = id :=
      calc id &&& 0x00C#29 = (id &&& 0x7F3#29) ||| (id &&& 0x00C#29) := by rw [hzero, BitVec.zero_or]
        _ = id &&& 0x7FF#29 := (BitVec.and_or_distrib_left ..).symm
        _ = id := and_standard_mask h
    have hnat : id.toNat &&& 12 = id.toNat := by simpa using congrArg BitVec.toNat hfree
    have hle : id.toNat ≤ 12 := hnat ▸ Nat.and_le_right
    simp only [← BitVec.toNat_inj]
    interval_cases id.toNat <;> simp_all
  · rintro (rfl | rfl | rfl | rfl) <;> rfl

/-- Settles O15: four identifiers by group 0, one by group 1, and neither takes an extended frame. -/
theorem deploymentAcceptsFiveIdentifiers : Obligations.DeploymentAcceptsFiveIdentifiers := by
  intro fr hwf
  rw [accept_table_iff]
  refine and_congr_right fun hstd => ?_
  obtain ⟨-, -, hfits⟩ := (frameWF_iff fr).1 hwf
  have hid : fr.id.toNat < 2 ^ 11 := by rwa [hstd] at hfits
  rw [and_0x7F3_eq_zero_iff hid, and_standard_mask hid]
  simp only [or_assoc]

end Sys2Proof.Machine

/-! # The buffer and the offer: `STORE` and `RX_OFFER` (40_acceptance_filter R104, R105) -/

namespace Sys2Proof.Machine

/-! ### `STORE` (R105) -/

theorem storeFrame_of_room {p : Params} {rxb : List Frame} (fr : Frame) (h : rxb.length < p.rxCap) :
    storeFrame p rxb fr = rxb ++ [fr] := if_pos h

theorem storeFrame_dropNew {p : Params} {rxb : List Frame} (fr : Frame) (hfull : p.rxCap ≤ rxb.length)
    (hp : p.rxOvf = .dropNew) : storeFrame p rxb fr = rxb := by
  simp [storeFrame, hp, Nat.not_lt.2 hfull]

theorem storeFrame_dropOldest {p : Params} {rxb : List Frame} (fr : Frame) (hfull : p.rxCap ≤ rxb.length)
    (hp : p.rxOvf = .dropOldest) : storeFrame p rxb fr = rxb.tail ++ [fr] := by
  simp [storeFrame, hp, Nat.not_lt.2 hfull]

theorem storeFrame_replaceNewest {p : Params} {rxb : List Frame} (fr : Frame) (hfull : p.rxCap ≤ rxb.length)
    (hp : p.rxOvf = .replaceNewest) : storeFrame p rxb fr = rxb.dropLast ++ [fr] := by
  simp [storeFrame, hp, Nat.not_lt.2 hfull]

/-- Under every policy a full buffer that holds a frame keeps its length: what goes in puts one out. -/
theorem storeFrame_length_of_full {p : Params} {rxb : List Frame} (fr : Frame) (hfull : p.rxCap ≤ rxb.length)
    (hne : 0 < rxb.length) : (storeFrame p rxb fr).length = rxb.length := by
  cases hp : p.rxOvf with
  | dropNew => rw [storeFrame_dropNew fr hfull hp]
  | dropOldest =>
    rw [storeFrame_dropOldest fr hfull hp, List.length_append, List.length_tail, List.length_singleton]
    omega
  | replaceNewest =>
    rw [storeFrame_replaceNewest fr hfull hp, List.length_append, List.length_dropLast, List.length_singleton]
    omega

/-- Settles O18: the room decides, then the policy. -/
theorem storeFollowsTheOverflowPolicy : Obligations.StoreFollowsTheOverflowPolicy := by
  refine fun p rxb fr => ⟨storeFrame_of_room fr, storeFrame_dropNew fr, fun oldest rest hfull hp hrxb => ?_,
    fun older newest hfull hp hrxb => ?_, fun hcap hlen => ?_⟩
  · rw [storeFrame_dropOldest fr hfull hp, hrxb, List.tail_cons]
  · rw [storeFrame_replaceNewest fr hfull hp, hrxb, List.dropLast_concat]
  · obtain hroom | hfull := Nat.lt_or_ge rxb.length p.rxCap
    · rw [storeFrame_of_room fr hroom, List.length_append, List.length_singleton]
      omega
    · rw [storeFrame_length_of_full fr hfull (by omega)]
      omega

/-! ### `RX_OFFER` (R104) -/

/-- The gate: the bus is on, and then the draw decides before the table is installed and the filter after. -/
theorem offerStored_iff {s : State} {fr : Frame} :
    offerStored s fr = true ↔
      s.buson = true ∧
        ((s.cfgd = false ∧ s.params.precfg = .draw ∧ s.draws.oPre = .accept) ∨
         (s.cfgd = true ∧ accept s.filters fr = true)) := by
  unfold offerStored
  cases s.buson <;> cases s.cfgd <;> cases s.params.precfg <;> simp

/-- An offer of a well-formed frame changes at most `RXB`, and does so when the gate lets the frame in. -/
theorem offerFrame_of_wf {fr : Frame} {s : State} (hwf : frameWF fr = true) :
    offerFrame fr s =
      .next { s with rxb := if offerStored s fr = true then storeFrame s.params s.rxb fr else s.rxb } := by
  refine offerFrame_eq_next.2 ⟨hwf, ?_⟩
  cases hstored : offerStored s fr with
  | true => exact .inl ⟨rfl, rfl⟩
  | false => exact .inr ⟨rfl, rfl⟩

theorem offerFrame_of_illFormed {fr : Frame} (s : State) (hwf : frameWF fr = false) :
    offerFrame fr s = .refused .offerIllFormed := if_pos hwf

theorem exec_rxOffer (fr : Frame) (s : State) : exec (.rxOffer fr) s = offerFrame fr s := rfl

/-- Settles O25: the branches of the statement are those of the gate. -/
theorem rxOfferResult : Obligations.RxOfferResult := by
  refine ⟨fun fr s => ⟨fun hwf => ?_, fun hwf => ?_⟩, fun fr => rfl⟩
  · rw [exec_rxOffer, offerFrame_of_wf hwf]
    cases hbus : s.buson with
    | false => simp [offerStored_iff, hbus]
    | true =>
      cases hcfgd : s.cfgd with
      | false => simp [offerStored_iff, hbus, hcfgd]
      | true => simp [offerStored_iff, hbus, hcfgd]
  · rw [exec_rxOffer, offerFrame_of_illFormed s hwf]

end Sys2Proof.Machine

/-! # Installing the table: `CONFIGURE_FILTERS` and `SQ_CFG` (40_acceptance_filter R106, 60_exceptions R177) -/

namespace Sys2Proof.Machine

/-! ### The call, by the outcome of its checks -/

theorem callConfigureFilters_of_busOff (t : Table) {s : State} (hbus : s.buson = false) :
    callConfigureFilters t s = .refused .configureBusOff := if_pos hbus

/-- The table check comes before the draw, so the answer is the same under every schedule. -/
theorem callConfigureFilters_of_illFormed {t : Table} {s : State} (hbus : s.buson = true) (hwf : tableWF t = false) :
    callConfigureFilters t s =
      .next (.fault .fcCfgTable, s.traced (.configureFilters t (.fault .fcCfgTable))) :=
  callConfigureFilters_eq_next.2 ⟨hbus, .inl ⟨hwf, rfl⟩⟩

theorem callConfigureFilters_of_fault {t : Table} {s : State} (hbus : s.buson = true) (hwf : tableWF t = true)
    (hdraw : s.draws.oCfg = .fault) :
    callConfigureFilters t s = .next (.fault .fcCfgMode, s.traced (.configureFilters t (.fault .fcCfgMode))) :=
  callConfigureFilters_eq_next.2 ⟨hbus, .inr (.inl ⟨hwf, hdraw, rfl⟩)⟩

theorem callConfigureFilters_of_ok {t : Table} {s : State} (hbus : s.buson = true) (hwf : tableWF t = true)
    (hdraw : s.draws.oCfg = .ok) :
    callConfigureFilters t s = .next (.ok, (setConfigured t s).traced (.configureFilters t .ok)) :=
  callConfigureFilters_eq_next.2 ⟨hbus, .inr (.inr ⟨hwf, hdraw, rfl⟩)⟩

theorem exec_configureFilters (t : Table) (s : State) :
    exec (.configureFilters t) s = dropResponse (callConfigureFilters t s) := rfl

/-- `TableWF` with its entries written out, as 00_scope R12 lists them. -/
theorem tableWF_iff_entries {t : Table} :
    tableWF t = true ↔
      (∀ e ∈ [t.f0, t.f1], e.x = t.m0.x) ∧ (∀ e ∈ [t.f2, t.f3, t.f4, t.f5], e.x = t.m1.x) ∧
      ∀ e ∈ [t.f0, t.f1, t.f2, t.f3, t.f4, t.f5, t.m0, t.m1], e.v.toNat < 2 ^ (if e.x then 29 else 11) := by
  simp only [← entryFits_iff, List.forall_mem_cons, List.not_mem_nil, false_imp_iff, implies_true, and_true]
  simp only [tableWF, filterWF_iff, Bool.and_eq_true, filterEntry, maskEntry, grp]
  constructor
  · rintro ⟨⟨⟨⟨⟨⟨⟨⟨x0, v0⟩, x1, v1⟩, x2, v2⟩, x3, v3⟩, x4, v4⟩, x5, v5⟩, vm0⟩, vm1⟩
    exact ⟨⟨x0, x1⟩, ⟨x2, x3, x4, x5⟩, v0, v1, v2, v3, v4, v5, vm0, vm1⟩
  · rintro ⟨⟨x0, x1⟩, ⟨x2, x3, x4, x5⟩, v0, v1, v2, v3, v4, v5, vm0, vm1⟩
    exact ⟨⟨⟨⟨⟨⟨⟨⟨x0, v0⟩, x1, v1⟩, x2, v2⟩, x3, v3⟩, x4, v4⟩, x5, v5⟩, vm0⟩, vm1⟩

/-- Settles O20: by the outcome of each check in turn. -/
theorem configureFiltersResult : Obligations.ConfigureFiltersResult := by
  refine ⟨fun t s => ⟨fun hbus => ?_, fun hbus => ?_⟩, fun t => ⟨rfl, rfl, rfl, rfl⟩, fun t => tableWF_iff_entries⟩
  · rw [exec_configureFilters]
    cases hwf : tableWF t with
    | false => rw [callConfigureFilters_of_illFormed hbus hwf]; rfl
    | true =>
      cases hdraw : s.draws.oCfg with
      | fault => rw [callConfigureFilters_of_fault hbus hwf hdraw]; rfl
      | ok => rw [callConfigureFilters_of_ok hbus hwf hdraw]; rfl
  · rw [exec_configureFilters, callConfigureFilters_of_busOff t hbus]
    rfl

/-! ### An ill-formed ROM table (R106 a, R177) -/

/-- `SQ_CFG` over a ROM that spells an ill-formed table takes the Configuration fault 0x03. -/
theorem execSqCfg_of_illFormed {s : State} {tb : Table} (hbus : s.buson = true) (hread : readTable s.rom = .next tb)
    (hwf : tableWF tb = false) :
    execSqCfg s = .next (cfgReact (s.traced (.configureFilters tb (.fault .fcCfgTable)))) := by
  rw [execSqCfg, hread, bindResult_next, callConfigureFilters_of_illFormed hbus hwf, bindResult_next]

/-- Settles O60: the step runs `SQ_CFG`, and the reaction to its fault is the policy's. -/
theorem illFormedTableNeverBoots : Obligations.IllFormedTableNeverBoots := by
  intro s d rest tb hseq hbus hscript hread hwf
  have hfetch : fetched s = .ok .sqCfg := by rw [fetched_of_seqStep (line_of_script_cons hscript), hseq]; rfl
  have hexec : exec .sqCfg s = .next (cfgReact (s.traced (.configureFilters tb (.fault .fcCfgTable)))) :=
    execSqCfg_of_illFormed hbus hread hwf
  rw [step_of_fetched_ok hfetch, hexec, bindResult_next, cfgReact, traced_params]
  cases hpolicy : s.params.cfgFault with
  | retry => simp [advance, State.traced, hscript, hseq]
  | halt => simp [advance, State.traced, hscript]

end Sys2Proof.Machine

/-! # The interface operations and the indicator (41_interface_ops R121 to R126) -/

namespace Sys2Proof.Machine

/-! ### The instructions that run a call on its own (R120) -/

theorem exec_initBus (n : Word32) (s : State) : exec (.initBus n) s = dropResponse (callInitBus n s) := rfl

theorem exec_frameAvailable (s : State) : exec .frameAvailable s = dropResponse (callFrameAvailable s) := rfl

theorem exec_receiveFrame (s : State) : exec .receiveFrame s = dropResponse (callReceiveFrame s) := rfl

theorem exec_transmitFrame (fr : Frame) (s : State) :
    exec (.transmitFrame fr) s = dropResponse (callTransmitFrame fr s) := rfl

theorem exec_diagSet (b : Bool) (s : State) : exec (.diagSet b) s = .next (writeDiag b s) := rfl

theorem exec_diagToggle (s : State) : exec .diagToggle s = .next (toggleDiag s) := rfl

/-! ### `INIT_BUS` (R121) -/

theorem callInitBus_of_ok {n : Word32} {s : State} (hdraw : s.draws.oInit = .ok) :
    callInitBus n s = .next (.ok, (setBusOn n s).traced (.initBus n .ok)) :=
  callInitBus_eq_next.2 (.inl ⟨hdraw, rfl⟩)

theorem callInitBus_of_fault {n : Word32} {s : State} (hdraw : s.draws.oInit = .fault) :
    callInitBus n s = .next (.fault .fcInit, s.traced (.initBus n (.fault .fcInit))) :=
  callInitBus_eq_next.2 (.inr ⟨hdraw, rfl⟩)

/-- Settles O19: by the draw. -/
theorem initBusResult : Obligations.InitBusResult := by
  refine ⟨fun n s => ?_, fun n => ⟨rfl, rfl, rfl⟩⟩
  rw [exec_initBus]
  cases hdraw : s.draws.oInit with
  | ok => rw [callInitBus_of_ok hdraw]; rfl
  | fault => rw [callInitBus_of_fault hdraw]; rfl

/-! ### `FRAME_AVAILABLE` (R122) -/

theorem callFrameAvailable_eq (s : State) :
    callFrameAvailable s =
      .next (decide (0 < s.rxb.length), s.traced (.frameAvailable (decide (0 < s.rxb.length)))) := by
  cases hrxb : s.rxb with
  | nil => exact callFrameAvailable_eq_next.2 (.inl ⟨hrxb, rfl⟩)
  | cons fr rest => exact callFrameAvailable_eq_next.2 (.inr ⟨by simp [hrxb], by simp⟩)

/-- Settles O21: the answer is that of the call, in every state. -/
theorem frameAvailableResult : Obligations.FrameAvailableResult := by
  refine ⟨fun s => ?_, rfl, rfl⟩
  rw [exec_frameAvailable, callFrameAvailable_eq]
  rfl

/-! ### `RECEIVE_FRAME` (R123) -/

theorem callReceiveFrame_of_empty {s : State} (hrxb : s.rxb = []) : callReceiveFrame s = .refused .receiveEmpty := by
  simp [callReceiveFrame, hrxb]

theorem callReceiveFrame_of_ok {s : State} {fr : Frame} {rest : List Frame} (hrxb : s.rxb = fr :: rest)
    (hdraw : s.draws.oRx = .ok) :
    callReceiveFrame s = .next (.ok fr, State.traced { s with rxb := rest } (.receiveFrame (.ok fr))) :=
  callReceiveFrame_eq_next.2 ⟨fr, rest, hrxb, .inl ⟨hdraw, rfl⟩⟩

/-- A fault with `KEEP` leaves the frame where it was: the buffer is the old one. -/
theorem callReceiveFrame_of_keep {s : State} {fr : Frame} {rest : List Frame} (hrxb : s.rxb = fr :: rest)
    (hdraw : s.draws.oRx = .fault) (hkeep : s.draws.oRxKeep = .keep) :
    callReceiveFrame s = .next (.fault .fcRx, s.traced (.receiveFrame (.fault .fcRx))) :=
  callReceiveFrame_eq_next.2 ⟨fr, rest, hrxb, .inr (.inl ⟨hdraw, hkeep, by rw [← hrxb]⟩)⟩

theorem callReceiveFrame_of_consume {s : State} {fr : Frame} {rest : List Frame} (hrxb : s.rxb = fr :: rest)
    (hdraw : s.draws.oRx = .fault) (hkeep : s.draws.oRxKeep = .consume) :
    callReceiveFrame s =
      .next (.fault .fcRx, State.traced { s with rxb := rest } (.receiveFrame (.fault .fcRx))) :=
  callReceiveFrame_eq_next.2 ⟨fr, rest, hrxb, .inr (.inr ⟨hdraw, hkeep, rfl⟩)⟩

/-- Settles O22: with a waiting frame by the two draws, the second of which matters on a fault only. -/
theorem receiveFrameResult : Obligations.ReceiveFrameResult := by
  refine ⟨fun s => ⟨fun fr rest hrxb => ?_, fun hrxb => ?_⟩, fun fr => rfl, rfl⟩
  · rw [exec_receiveFrame]
    cases hdraw : s.draws.oRx with
    | ok => rw [callReceiveFrame_of_ok hrxb hdraw]; rfl
    | fault =>
      cases hkeep : s.draws.oRxKeep with
      | keep => rw [callReceiveFrame_of_keep hrxb hdraw hkeep]; rfl
      | consume => rw [callReceiveFrame_of_consume hrxb hdraw hkeep]; rfl
  · rw [exec_receiveFrame, callReceiveFrame_of_empty hrxb]
    rfl

/-! ### `TRANSMIT_FRAME` (R124) -/

theorem callTransmitFrame_of_busOff (fr : Frame) {s : State} (hbus : s.buson = false) :
    callTransmitFrame fr s = .refused .transmitBusOff := if_pos hbus

theorem callTransmitFrame_of_illFormed {fr : Frame} {s : State} (hbus : s.buson = true) (hwf : frameWF fr = false) :
    callTransmitFrame fr s = .refused .transmitIllFormed := by
  simp [callTransmitFrame, hbus, hwf]

theorem callTransmitFrame_of_ok {fr : Frame} {s : State} (hbus : s.buson = true) (hwf : frameWF fr = true)
    (hdraw : s.draws.oTx = .ok) :
    callTransmitFrame fr s = .next (.ok, (s.sent fr).traced (.transmitFrame fr .ok)) :=
  callTransmitFrame_eq_next.2 ⟨hbus, hwf, .inl ⟨hdraw, rfl⟩⟩

theorem callTransmitFrame_of_fault {fr : Frame} {s : State} (hbus : s.buson = true) (hwf : frameWF fr = true)
    (hdraw : s.draws.oTx = .fault) :
    callTransmitFrame fr s = .next (.fault .fcTx, s.traced (.transmitFrame fr (.fault .fcTx))) :=
  callTransmitFrame_eq_next.2 ⟨hbus, hwf, .inr ⟨hdraw, rfl⟩⟩

/-- Settles O23: by the two checks in their order, and then by the draw. -/
theorem transmitFrameResult : Obligations.TransmitFrameResult := by
  refine ⟨fun fr s => ⟨fun hbus hwf => ?_, fun hbus => ?_, fun hbus hwf => ?_⟩, fun fr => ⟨rfl, rfl⟩⟩
  · rw [exec_transmitFrame]
    cases hdraw : s.draws.oTx with
    | ok => rw [callTransmitFrame_of_ok hbus hwf hdraw]; rfl
    | fault => rw [callTransmitFrame_of_fault hbus hwf hdraw]; rfl
  · rw [exec_transmitFrame, callTransmitFrame_of_busOff fr hbus]
    rfl
  · rw [exec_transmitFrame, callTransmitFrame_of_illFormed hbus hwf]
    rfl

/-! ### `DIAG_SET` and `DIAG_TOGGLE` (R125, R126) -/

/-- Settles O24: both operations write the level and log it; a toggle writes the opposite level. -/
theorem indicatorOperationsResult : Obligations.IndicatorOperationsResult := by
  refine ⟨fun b s => ?_, fun s => ?_, rfl, rfl, rfl⟩
  · rw [exec_diagSet, writeDiag]
  · rw [exec_diagToggle, toggleDiag, writeDiag]

end Sys2Proof.Machine

/-! # No step is refused from a state with the invariants (41_interface_ops R127) -/

namespace Sys2Proof.Machine

/-! ### The calls that answer -/

theorem callInitBus_answers (n : Word32) (s : State) : ∃ a, callInitBus n s = .next a := by
  cases hdraw : s.draws.oInit with
  | ok => exact ⟨_, callInitBus_of_ok hdraw⟩
  | fault => exact ⟨_, callInitBus_of_fault hdraw⟩

theorem callConfigureFilters_answers (t : Table) {s : State} (hbus : s.buson = true) :
    ∃ a, callConfigureFilters t s = .next a := by
  cases hwf : tableWF t with
  | false => exact ⟨_, callConfigureFilters_of_illFormed hbus hwf⟩
  | true =>
    cases hdraw : s.draws.oCfg with
    | ok => exact ⟨_, callConfigureFilters_of_ok hbus hwf hdraw⟩
    | fault => exact ⟨_, callConfigureFilters_of_fault hbus hwf hdraw⟩

theorem callReceiveFrame_answers {s : State} (hrxb : s.rxb ≠ []) : ∃ a, callReceiveFrame s = .next a := by
  obtain ⟨fr, rest, hcons⟩ := List.exists_cons_of_ne_nil hrxb
  cases hdraw : s.draws.oRx with
  | ok => exact ⟨_, callReceiveFrame_of_ok hcons hdraw⟩
  | fault =>
    cases hkeep : s.draws.oRxKeep with
    | keep => exact ⟨_, callReceiveFrame_of_keep hcons hdraw hkeep⟩
    | consume => exact ⟨_, callReceiveFrame_of_consume hcons hdraw hkeep⟩

theorem callTransmitFrame_answers {fr : Frame} {s : State} (hbus : s.buson = true) (hwf : frameWF fr = true) :
    ∃ a, callTransmitFrame fr s = .next a := by
  cases hdraw : s.draws.oTx with
  | ok => exact ⟨_, callTransmitFrame_of_ok hbus hwf hdraw⟩
  | fault => exact ⟨_, callTransmitFrame_of_fault hbus hwf hdraw⟩

/-! ### The micro-operations that complete -/

theorem execSqInit_completes (s : State) : ∃ t, execSqInit s = .next t := by
  obtain ⟨⟨r, u⟩, hcall⟩ := callInitBus_answers Config.bitRate s
  rw [execSqInit, hcall, bindResult_next]
  cases r <;> exact ⟨_, rfl⟩

theorem execSqCfg_completes {s : State} {tb : Table} (hbus : s.buson = true) (hread : readTable s.rom = .next tb) :
    ∃ t, execSqCfg s = .next t := by
  obtain ⟨⟨r, u⟩, hcall⟩ := callConfigureFilters_answers tb hbus
  rw [execSqCfg, hread, bindResult_next, hcall, bindResult_next]
  cases r <;> exact ⟨_, rfl⟩

/-- The start-up frame is well-formed, so only the bus matters (42_relay_sequencer R143). -/
theorem execSqStx_completes {s : State} (hbus : s.buson = true) : ∃ t, execSqStx s = .next t := by
  have hwf : frameWF (heldFrame (loadHeld Config.diagFrame)) = true := by decide
  obtain ⟨a, hcall⟩ := callTransmitFrame_answers (s := { s with hf := loadHeld Config.diagFrame }) hbus hwf
  exact ⟨_, bindResult_eq_next.2 ⟨a, hcall, rfl⟩⟩

theorem execSqPoll_completes (s : State) : ∃ t, execSqPoll s = .next t :=
  ⟨_, bindResult_eq_next.2 ⟨_, callFrameAvailable_eq s, rfl⟩⟩

theorem execSqFetch_completes {s : State} (hrxb : s.rxb ≠ []) : ∃ t, execSqFetch s = .next t := by
  obtain ⟨⟨r, u⟩, hcall⟩ := callReceiveFrame_answers hrxb
  rw [execSqFetch, hcall, bindResult_next]
  cases r <;> exact ⟨_, rfl⟩

theorem execSqXform_completes (s : State) : ∃ t, execSqXform s = .next t := by
  rw [execSqXform_eq_ite]
  split <;> exact ⟨_, rfl⟩

theorem execSqTx_completes {s : State} (hbus : s.buson = true) (hwf : frameWF (heldFrame s.hf) = true) :
    ∃ t, execSqTx s = .next t := by
  obtain ⟨a, hcall⟩ := callTransmitFrame_answers hbus hwf
  exact ⟨_, bindResult_eq_next.2 ⟨a, hcall, rfl⟩⟩

/-- The invariants give each micro-operation what its calls ask for: the bus on, a table in the ROM, a waiting frame,
a well-formed held frame. -/
theorem Inv.exec_microOp_completes {s : State} (hs : Inv s) : ∃ t, exec (microOp s.seq) s = .next t := by
  cases hseq : s.seq with
  | booting => exact execSqInit_completes s
  | filterConfig =>
    obtain ⟨tb, hread⟩ := hs.rom_table
    exact execSqCfg_completes (hs.bus_on (by simp [hseq]) (by simp [hseq])) hread
  | startupTx => exact execSqStx_completes (hs.bus_on (by simp [hseq]) (by simp [hseq]))
  | relayPoll => exact execSqPoll_completes s
  | relayFetch => exact execSqFetch_completes (hs.fetch_ready hseq)
  | relayXform => exact execSqXform_completes s
  | relayTx =>
    have hheld : s.hfv = true := by rw [hs.held, hseq]; rfl
    exact execSqTx_completes (hs.bus_on (by simp [hseq]) (by simp [hseq])) (hs.held_wf hheld)
  | halted => exact ⟨_, rfl⟩

/-! ### The step -/

/-- What a step runs was decoded from an item of one of the three code spaces (30_encoding R70). -/
theorem exists_word_of_fetched (s : State) : ∃ w, fetched s = decode w := by
  unfold fetched
  split <;> exact ⟨_, rfl⟩

/-- The frame of a decoded offer is well-formed (30_encoding R72). -/
theorem frameWF_of_fetched_rxOffer {s : State} {fr : Frame} (h : fetched s = .ok (.rxOffer fr)) :
    frameWF fr = true := by
  obtain ⟨w, hw⟩ := exists_word_of_fetched s
  exact (decodedItemsReencode w _ (hw ▸ h)).2

theorem Completes.of_exec {s t : State} {i : Instr} (hi : fetched s = .ok i) (h : exec i s = .next t) : Completes s :=
  ⟨_, step_eq_next.2 ⟨i, t, hi, h, rfl⟩⟩

/-- Settles O52: a step runs the selected micro-operation, whose calls the invariants serve, or one of the two events,
which go through. -/
theorem invariantStatesNeverRefuse : Obligations.InvariantStatesNeverRefuse := by
  intro s i hs hi
  obtain rfl | rfl | ⟨fr, rfl⟩ := hs.fetched_cases hi
  · obtain ⟨t, ht⟩ := hs.exec_microOp_completes
    exact .of_exec hi ht
  · exact .of_exec hi (t := resetState s) rfl
  · exact .of_exec hi (offerFrame_of_wf (frameWF_of_fetched_rxOffer hi))

end Sys2Proof.Machine

/-! # The micro-operations, each by the outcome of its call (42_relay_sequencer R141 to R148) -/

namespace Sys2Proof.Machine

/-! ### `SQ_INIT` (R141) -/

theorem execSqInit_of_ok {s : State} (hdraw : s.draws.oInit = .ok) :
    execSqInit s =
      .next { toggleDiag ((setBusOn Config.bitRate s).traced (.initBus Config.bitRate .ok)) with
        seq := .filterConfig } := by
  rw [execSqInit, callInitBus_of_ok hdraw, bindResult_next]

theorem execSqInit_of_fault {s : State} (hdraw : s.draws.oInit = .fault) :
    execSqInit s = .next (cfgReact (s.traced (.initBus Config.bitRate (.fault .fcInit)))) := by
  rw [execSqInit, callInitBus_of_fault hdraw, bindResult_next]

/-- Settles O28: by the draw, and on a fault by the policy. -/
theorem sqInitResult : Obligations.SqInitResult := by
  intro s
  change execSqInit s = _
  cases hdraw : s.draws.oInit with
  | ok => rw [execSqInit_of_ok hdraw]; rfl
  | fault =>
    rw [execSqInit_of_fault hdraw, cfgReact, traced_params]
    cases s.params.cfgFault <;> rfl

/-! ### `SQ_CFG` (R142) -/

theorem execSqCfg_of_busOff {s : State} {tb : Table} (hread : readTable s.rom = .next tb) (hbus : s.buson = false) :
    execSqCfg s = .refused .configureBusOff := by
  rw [execSqCfg, hread, bindResult_next, callConfigureFilters_of_busOff tb hbus, bindResult_refused]

theorem execSqCfg_of_noTable {s : State} {e : Refusal} (hread : readTable s.rom = .refused e) :
    execSqCfg s = .refused e := by
  rw [execSqCfg, hread, bindResult_refused]

theorem execSqCfg_of_fault {s : State} {tb : Table} (hbus : s.buson = true) (hread : readTable s.rom = .next tb)
    (hwf : tableWF tb = true) (hdraw : s.draws.oCfg = .fault) :
    execSqCfg s = .next (cfgReact (s.traced (.configureFilters tb (.fault .fcCfgMode)))) := by
  rw [execSqCfg, hread, bindResult_next, callConfigureFilters_of_fault hbus hwf hdraw, bindResult_next]

theorem execSqCfg_of_ok {s : State} {tb : Table} (hbus : s.buson = true) (hread : readTable s.rom = .next tb)
    (hwf : tableWF tb = true) (hdraw : s.draws.oCfg = .ok) :
    execSqCfg s =
      .next { toggleDiag ((setConfigured tb s).traced (.configureFilters tb .ok)) with seq := .startupTx } := by
  rw [execSqCfg, hread, bindResult_next, callConfigureFilters_of_ok hbus hwf hdraw, bindResult_next]

/-- A Configuration fault of `SQ_CFG`, whichever of the two, writes `TRACE` and what the policy says. -/
theorem cfgReact_traced (s : State) (e : TraceEntry) :
    cfgReact (s.traced e) =
      { s with
        trace := s.trace ++ [e]
        seq := match s.params.cfgFault with
          | .retry => s.seq
          | .halt => .halted } := by
  rw [cfgReact, traced_params]
  cases s.params.cfgFault <;> rfl

/-- Settles O29: by the bus, the table check and then the draw. -/
theorem sqCfgResult : Obligations.SqCfgResult := by
  refine ⟨fun s tb hread => ⟨fun hbus => ?_, fun hbus => execSqCfg_of_busOff hread hbus⟩,
    fun s e hread => execSqCfg_of_noTable hread⟩
  change execSqCfg s = _
  cases hwf : tableWF tb with
  | false =>
    rw [execSqCfg_of_illFormed hbus hread hwf, cfgReact_traced]
    rfl
  | true =>
    cases hdraw : s.draws.oCfg with
    | ok => rw [execSqCfg_of_ok hbus hread hwf hdraw]; rfl
    | fault =>
      rw [execSqCfg_of_fault hbus hread hwf hdraw, cfgReact_traced]
      rfl

/-! ### `SQ_STX` (R143) -/

theorem frameWF_diagFrame : frameWF Config.diagFrame = true := by decide

theorem heldFrame_loadHeld_diagFrame : heldFrame (loadHeld Config.diagFrame) = Config.diagFrame :=
  heldFrame_loadHeld frameWF_diagFrame

/-- `SQ_STX` in terms of its call, made with the start-up frame in `HF`. -/
theorem execSqStx_of_call {s : State} {r : Result (Status × State)}
    (hcall : callTransmitFrame Config.diagFrame { s with hf := loadHeld Config.diagFrame } = r) :
    execSqStx s =
      bindResult r fun a => .next { toggleDiag (releaseHeld (txReact a.1 a.2)) with seq := .relayPoll } := by
  rw [execSqStx, heldFrame_loadHeld_diagFrame, hcall]

theorem execSqStx_of_busOff {s : State} (hbus : s.buson = false) : execSqStx s = .refused .transmitBusOff :=
  execSqStx_of_call (callTransmitFrame_of_busOff _ hbus)

theorem execSqStx_of_ok {s : State} (hbus : s.buson = true) (hdraw : s.draws.oTx = .ok) :
    execSqStx s =
      .next { toggleDiag (releaseHeld ((s.sent Config.diagFrame).traced (.transmitFrame Config.diagFrame .ok))) with
        seq := .relayPoll } :=
  execSqStx_of_call (callTransmitFrame_of_ok hbus frameWF_diagFrame hdraw)

theorem execSqStx_of_fault {s : State} (hbus : s.buson = true) (hdraw : s.draws.oTx = .fault) :
    execSqStx s =
      .next { toggleDiag (releaseHeld (s.traced (.transmitFrame Config.diagFrame (.fault .fcTx)))) with
        seq := .relayPoll, txf := true } :=
  execSqStx_of_call (callTransmitFrame_of_fault hbus frameWF_diagFrame hdraw)

/-- Settles O30: by the draw; `HF` is the free value that the model leaves. -/
theorem sqStxResult : Obligations.SqStxResult := by
  refine fun s => ⟨fun hbus => ⟨Config.freeHeld s.freeIx, ?_⟩, execSqStx_of_busOff⟩
  change execSqStx s = _
  cases hdraw : s.draws.oTx with
  | ok => rw [execSqStx_of_ok hbus hdraw]; rfl
  | fault => rw [execSqStx_of_fault hbus hdraw]; rfl

/-! ### `SQ_POLL` (R144) -/

theorem execSqPoll_eq (s : State) :
    execSqPoll s =
      .next { s.traced (.frameAvailable (decide (0 < s.rxb.length))) with
        seq := if s.rxb = [] then .relayPoll else .relayFetch } := by
  rw [execSqPoll, callFrameAvailable_eq, bindResult_next]
  cases hrxb : s.rxb <;> simp

theorem execSqPoll_of_empty {s : State} (hrxb : s.rxb = []) :
    execSqPoll s = .next { s.traced (.frameAvailable false) with seq := .relayPoll } := by
  simp [execSqPoll_eq, hrxb]

theorem execSqPoll_of_waiting {s : State} (hrxb : s.rxb ≠ []) :
    execSqPoll s = .next { s.traced (.frameAvailable true) with seq := .relayFetch } := by
  simp [execSqPoll_eq, hrxb, List.length_pos_iff]

/-- Settles O31: by whether a frame waits. -/
theorem sqPollResult : Obligations.SqPollResult := fun _ => ⟨execSqPoll_of_empty, execSqPoll_of_waiting⟩

/-! ### `SQ_FETCH` (R145) -/

theorem execSqFetch_of_empty {s : State} (hrxb : s.rxb = []) : execSqFetch s = .refused .receiveEmpty := by
  rw [execSqFetch, callReceiveFrame_of_empty hrxb, bindResult_refused]

theorem execSqFetch_of_ok {s : State} {fr : Frame} {rest : List Frame} (hrxb : s.rxb = fr :: rest)
    (hdraw : s.draws.oRx = .ok) :
    execSqFetch s =
      .next { holdFrame fr (State.traced { s with rxb := rest } (.receiveFrame (.ok fr))) with
        seq := .relayXform } := by
  rw [execSqFetch, callReceiveFrame_of_ok hrxb hdraw, bindResult_next]

theorem execSqFetch_of_keep {s : State} {fr : Frame} {rest : List Frame} (hrxb : s.rxb = fr :: rest)
    (hdraw : s.draws.oRx = .fault) (hkeep : s.draws.oRxKeep = .keep) :
    execSqFetch s = .next (rxReact (s.traced (.receiveFrame (.fault .fcRx)))) := by
  rw [execSqFetch, callReceiveFrame_of_keep hrxb hdraw hkeep, bindResult_next]

theorem execSqFetch_of_consume {s : State} {fr : Frame} {rest : List Frame} (hrxb : s.rxb = fr :: rest)
    (hdraw : s.draws.oRx = .fault) (hkeep : s.draws.oRxKeep = .consume) :
    execSqFetch s =
      .next (rxReact (State.traced { s with rxb := rest } (.receiveFrame (.fault .fcRx)))) := by
  rw [execSqFetch, callReceiveFrame_of_consume hrxb hdraw hkeep, bindResult_next]

/-- A faulted fetch leaves the buffer that `o_rxkeep` says and goes back to the poll. -/
theorem execSqFetch_of_fault {s : State} {fr : Frame} {rest : List Frame} (hrxb : s.rxb = fr :: rest)
    (hdraw : s.draws.oRx = .fault) :
    execSqFetch s =
      .next (rxReact (State.traced
        { s with rxb := if s.draws.oRxKeep = .keep then fr :: rest else rest } (.receiveFrame (.fault .fcRx)))) := by
  cases hkeep : s.draws.oRxKeep with
  | keep => rw [execSqFetch_of_keep hrxb hdraw hkeep, if_pos rfl, ← hrxb]
  | consume => rw [execSqFetch_of_consume hrxb hdraw hkeep, if_neg (by decide)]

/-- `HF` loaded with a frame has a byte at every index below 8 (10_state R32). -/
theorem heldBytes_loadHeld_getElem? (fr : Frame) {i : Nat} (hi : i < 8) :
    (heldBytes (loadHeld fr))[i]? = some (payloadByte fr i) := by
  interval_cases i <;> rfl

/-- Settles O32: with a waiting frame by the two draws; a stored byte is the payload's below `len` and a pad after. -/
theorem sqFetchResult : Obligations.SqFetchResult := by
  refine fun s => ⟨fun fr rest hrxb => ⟨?_, fun i hpad hi => ?_, fun i hpay hi => ?_, rfl, rfl, rfl, rfl⟩,
    execSqFetch_of_empty⟩
  · change execSqFetch s = _
    cases hdraw : s.draws.oRx with
    | ok => rw [execSqFetch_of_ok hrxb hdraw]; rfl
    | fault =>
      cases hkeep : s.draws.oRxKeep with
      | keep => rw [execSqFetch_of_keep hrxb hdraw hkeep]; rfl
      | consume => rw [execSqFetch_of_consume hrxb hdraw hkeep]; rfl
  · rw [List.getD_eq_getElem?_getD, heldBytes_loadHeld_getElem? fr hi, Option.getD_some, payloadByte_of_ge _ _ hpad]
  · rw [List.getD_eq_getElem?_getD, heldBytes_loadHeld_getElem? fr hi, Option.getD_some, payloadByte_of_lt _ _ hpay]

/-! ### `SQ_XFORM` (R146) -/

theorem execSqXform_of_keep {s : State} {v : Ident} (h : xform s.params.idOvf s.hf.id s.hf.ext = (v, true)) :
    execSqXform s = .next { s with hf := { s.hf with id := v }, seq := .relayTx } := by
  rw [execSqXform_eq_ite, h, if_pos rfl]

theorem execSqXform_of_drop {s : State} {v : Ident} (h : xform s.params.idOvf s.hf.id s.hf.ext = (v, false)) :
    execSqXform s = .next { s with hfv := false, seq := .relayPoll } := by
  rw [execSqXform_eq_ite, h, if_neg Bool.false_ne_true]

/-- Settles O33: by the transform's keep flag. -/
theorem sqXformResult : Obligations.SqXformResult := fun _ _ => ⟨execSqXform_of_keep, execSqXform_of_drop⟩

/-! ### `SQ_TX` (R147) -/

theorem execSqTx_of_busOff {s : State} (hbus : s.buson = false) : execSqTx s = .refused .transmitBusOff := by
  rw [execSqTx, callTransmitFrame_of_busOff _ hbus, bindResult_refused]

theorem execSqTx_of_illFormed {s : State} (hbus : s.buson = true) (hwf : frameWF (heldFrame s.hf) = false) :
    execSqTx s = .refused .transmitIllFormed := by
  rw [execSqTx, callTransmitFrame_of_illFormed hbus hwf, bindResult_refused]

theorem execSqTx_of_ok {s : State} {fr : Frame} (hbus : s.buson = true) (hheld : heldFrame s.hf = fr)
    (hwf : frameWF fr = true) (hdraw : s.draws.oTx = .ok) :
    execSqTx s =
      .next { releaseHeld ((s.sent fr).traced (.transmitFrame fr .ok)) with seq := .relayPoll } := by
  rw [execSqTx, hheld, callTransmitFrame_of_ok hbus hwf hdraw, bindResult_next]
  rfl

theorem execSqTx_of_fault {s : State} {fr : Frame} (hbus : s.buson = true) (hheld : heldFrame s.hf = fr)
    (hwf : frameWF fr = true) (hdraw : s.draws.oTx = .fault) :
    execSqTx s =
      .next { releaseHeld (s.traced (.transmitFrame fr (.fault .fcTx))) with seq := .relayPoll, txf := true } := by
  rw [execSqTx, hheld, callTransmitFrame_of_fault hbus hwf hdraw, bindResult_next]
  rfl

/-- Settles O34: by the draw; `HF` is the free value that the model leaves. -/
theorem sqTxResult : Obligations.SqTxResult := by
  refine fun s => ⟨fun hbus hwf => ⟨Config.freeHeld s.freeIx, ?_⟩, execSqTx_of_busOff, execSqTx_of_illFormed⟩
  change execSqTx s = _
  cases hdraw : s.draws.oTx with
  | ok => rw [execSqTx_of_ok hbus rfl hwf hdraw]; rfl
  | fault => rw [execSqTx_of_fault hbus rfl hwf hdraw]; rfl

/-! ### `SQ_HALT` (R148) -/

theorem execSqHalt_of_halted {s : State} (hseq : s.seq = .halted) : execSqHalt s = .next s := by
  rw [execSqHalt, ← hseq]

/-- Settles O35: the one write is of `SEQ`, which in the halt state holds that value already. -/
theorem sqHaltResult : Obligations.SqHaltResult := ⟨fun _ => rfl, fun _ => execSqHalt_of_halted⟩

end Sys2Proof.Machine

/-! # The order of the calls and the levels of the indicator (42_relay_sequencer R151 to R153, 60_exceptions R183) -/

namespace Sys2Proof.Machine

/-! ### The histories read so far -/

/-- Settles O54: no call has been made, no level written and nothing sent. -/
theorem historyInvariantsHoldAfterReset : Obligations.HistoryInvariantsHoldAfterReset := fun _ =>
  { calls := rfl, levels := rfl, sent := rfl }

theorem tracePhase_append (p : IdOvfPolicy) (table : Result Table) (tr es : List TraceEntry) :
    tracePhase p table (tr ++ es) = es.foldl (traceStep p table) (tracePhase p table tr) :=
  List.foldl_append

theorem levelsSinceReset_level (log : List DiagEntry) (b : Bool) :
    levelsSinceReset (log ++ [.level b]) = levelsSinceReset log ++ [b] := by
  simp [levelsSinceReset]

theorem levelsSinceReset_reset (log : List DiagEntry) : levelsSinceReset (log ++ [.reset]) = [] := by
  simp [levelsSinceReset]

/-- An instruction that records the calls `es` keeps the histories if these calls take the phase of `SEQ` before to that
of `SEQ` after, and the levels are those of `SEQ` after: what `TXOUT` gains follows the trace of itself. -/
theorem HistoryInv.of_exec {i : Instr} {s t : State} (hs : HistoryInv s) (h : exec i s = .next t)
    (es : List TraceEntry) (htrace : t.trace = s.trace ++ es)
    (hphase : es.foldl (traceStep s.params.idOvf (readTable s.rom)) (expectedPhase s) = expectedPhase t)
    (hlevels : levelsSinceReset t.diaglog = indicatorSignature t) : HistoryInv t where
  calls := by
    obtain ⟨hparams, hrom, -, -⟩ := (exec_keeps h).same .wired (wired_not_mem_writeSet i)
    rw [hparams, hrom, htrace, tracePhase_append, hs.calls, hphase]
  levels := hlevels
  sent := transmitHistoryFollowsTheTrace i s t h hs.sent

/-- A boot step that goes on toggles the indicator, and keeps the histories if the new level is the one owed next. -/
theorem HistoryInv.of_toggle {i : Instr} {s t : State} (hs : HistoryInv s) (h : exec i s = .next t)
    (e : TraceEntry) (htrace : t.trace = s.trace ++ [e])
    (hphase : traceStep s.params.idOvf (readTable s.rom) (expectedPhase s) e = expectedPhase t)
    (hdiaglog : t.diaglog = s.diaglog ++ [.level (!s.diag)])
    (hsig : indicatorSignature t = indicatorSignature s ++ [!s.diag]) : HistoryInv t := by
  refine hs.of_exec h [e] htrace hphase ?_
  rw [hdiaglog, levelsSinceReset_level, hs.levels, hsig]

/-- Inside the relay nothing writes the indicator, so only the calls matter. -/
theorem HistoryInv.of_relay_step {i : Instr} {s t : State} (hs : HistoryInv s) (h : exec i s = .next t)
    (hi : .indicator ∉ writeSet i) (hseq : relaying s.seq = true) (hseq' : relaying t.seq = true)
    (es : List TraceEntry) (htrace : t.trace = s.trace ++ es)
    (hphase : es.foldl (traceStep s.params.idOvf (readTable s.rom)) (expectedPhase s) = expectedPhase t) :
    HistoryInv t := by
  refine hs.of_exec h es htrace hphase ?_
  obtain ⟨-, hdiaglog⟩ := (exec_keeps h).same .indicator hi
  rw [hdiaglog, hs.levels, indicatorSignature_of_relaying hseq, indicatorSignature_of_relaying hseq']

/-! ### The boot (R151) -/

/-- Where a Configuration fault leaves the sequencer, the calls made so far stand for the same phase and the same levels
are owed: a halt remembers by `BUSON` in which of the two stages it happened. -/
theorem cfgReact_stage {s : State} (hs : Inv s) (hseq : s.seq = .booting ∨ s.seq = .filterConfig) :
    expectedPhase (cfgReact s) = expectedPhase s ∧ indicatorSignature (cfgReact s) = indicatorSignature s := by
  unfold cfgReact
  split
  · exact ⟨rfl, rfl⟩
  · obtain hq | hq := hseq
    · simp [expectedPhase, indicatorSignature, hq, hs.bus_off hq]
    · simp [expectedPhase, indicatorSignature, hq, hs.bus_on (by simp [hq]) (by simp [hq])]

/-- A boot call that answers a Configuration fault keeps the histories if it leaves the phase where it is. -/
theorem HistoryInv.of_cfgReact {i : Instr} {s : State} {e : TraceEntry} (hh : HistoryInv s) (hs : Inv s)
    (hseq : s.seq = .booting ∨ s.seq = .filterConfig) (h : exec i s = .next (cfgReact (s.traced e)))
    (hphase : traceStep s.params.idOvf (readTable s.rom) (expectedPhase s) e = expectedPhase s) :
    HistoryInv (cfgReact (s.traced e)) := by
  obtain ⟨hkept, hsig⟩ := cfgReact_stage (hs.traced e) hseq
  refine hh.of_exec h [e] (by simp) (hphase.trans hkept.symm) ?_
  rw [hsig, cfgReact_diaglog]
  exact hh.levels

theorem execSqInit_history {s t : State} (hh : HistoryInv s) (hs : Inv s) (hseq : s.seq = .booting)
    (h : execSqInit s = .next t) : HistoryInv t := by
  have hphase : expectedPhase s = .boot := by simp [expectedPhase, hseq]
  have hsig : indicatorSignature s = [] := by simp [indicatorSignature, hseq]
  have hdiag : s.diag = false := by rw [hs.indicator, hsig]; rfl
  obtain ⟨a, hcall, hrest⟩ := bindResult_eq_next.1 h
  obtain ⟨-, rfl⟩ | ⟨-, rfl⟩ := callInitBus_eq_next.1 hcall
  · cases hrest
    exact hh.of_toggle (i := .sqInit) h (.initBus Config.bitRate .ok) rfl (by rw [hphase]; rfl) rfl
      (by rw [hsig, hdiag]; rfl)
  · cases hrest
    exact hh.of_cfgReact (i := .sqInit) hs (.inl hseq) h (by rw [hphase]; rfl)

/-- In `FILTER_CONFIG` the call is of the ROM's table, so its response alone decides the phase. -/
theorem traceStep_configureFilters {s : State} {tb : Table} (hread : readTable s.rom = .next tb) (r : Status) :
    traceStep s.params.idOvf (readTable s.rom) .busOn (.configureFilters tb r) =
      if r = .ok then .tableIn else .busOn := by
  cases r <;> simp [traceStep, hread]

theorem execSqCfg_history {s t : State} (hh : HistoryInv s) (hs : Inv s) (hseq : s.seq = .filterConfig)
    (h : execSqCfg s = .next t) : HistoryInv t := by
  have hphase : expectedPhase s = .busOn := by simp [expectedPhase, hseq]
  have hsig : indicatorSignature s = [true] := by simp [indicatorSignature, hseq]
  have hdiag : s.diag = true := by rw [hs.indicator, hsig]; rfl
  obtain ⟨tb, hread, htb⟩ := bindResult_eq_next.1 h
  obtain ⟨a, hcall, hrest⟩ := bindResult_eq_next.1 htb
  obtain ⟨-, ⟨-, rfl⟩ | ⟨-, -, rfl⟩ | ⟨-, -, rfl⟩⟩ := callConfigureFilters_eq_next.1 hcall
  · cases hrest
    exact hh.of_cfgReact (i := .sqCfg) hs (.inr hseq) h (by rw [hphase, traceStep_configureFilters hread]; rfl)
  · cases hrest
    exact hh.of_cfgReact (i := .sqCfg) hs (.inr hseq) h (by rw [hphase, traceStep_configureFilters hread]; rfl)
  · cases hrest
    exact hh.of_toggle (i := .sqCfg) h (.configureFilters tb .ok) rfl
      (by rw [hphase, traceStep_configureFilters hread]; rfl) rfl (by rw [hsig, hdiag]; rfl)

theorem execSqStx_history {s t : State} (hh : HistoryInv s) (hs : Inv s) (hseq : s.seq = .startupTx)
    (h : execSqStx s = .next t) : HistoryInv t := by
  have hphase : expectedPhase s = .tableIn := by simp [expectedPhase, hseq]
  have hsig : indicatorSignature s = [true, false] := by simp [indicatorSignature, hseq]
  have hdiag : s.diag = false := by rw [hs.indicator, hsig]; rfl
  have hbus : s.buson = true := hs.bus_on (by simp [hseq]) (by simp [hseq])
  cases hdraw : s.draws.oTx with
  | ok =>
    cases (execSqStx_of_ok hbus hdraw).symm.trans h
    exact hh.of_toggle (i := .sqStx) h (.transmitFrame Config.diagFrame .ok) rfl (by rw [hphase]; rfl) rfl
      (by rw [hsig, hdiag]; rfl)
  | fault =>
    cases (execSqStx_of_fault hbus hdraw).symm.trans h
    exact hh.of_toggle (i := .sqStx) h (.transmitFrame Config.diagFrame (.fault .fcTx)) rfl (by rw [hphase]; rfl) rfl
      (by rw [hsig, hdiag]; rfl)

/-! ### The relay (R152, R153) -/

theorem relayFrame_of_keep {p : IdOvfPolicy} {fr : Frame} {v : Ident} (h : xform p fr.id fr.ext = (v, true)) :
    relayFrame p fr = some { fr with id := v } := by
  simp [relayFrame, h]

theorem relayFrame_of_drop {p : IdOvfPolicy} {fr : Frame} {v : Ident} (h : xform p fr.id fr.ext = (v, false)) :
    relayFrame p fr = none := by
  simp [relayFrame, h]

theorem execSqPoll_history {s t : State} (hh : HistoryInv s) (hseq : s.seq = .relayPoll)
    (h : execSqPoll s = .next t) : HistoryInv t := by
  have hphase : expectedPhase s = .polling := by simp [expectedPhase, hseq]
  have hrelay : relaying s.seq = true := by rw [hseq]; rfl
  obtain ⟨a, hcall, hrest⟩ := bindResult_eq_next.1 h
  obtain ⟨-, rfl⟩ | ⟨-, rfl⟩ := callFrameAvailable_eq_next.1 hcall
  · cases hrest
    exact hh.of_relay_step (i := .sqPoll) h (by simp [writeSet]) hrelay rfl [.frameAvailable false] rfl
      (by rw [hphase]; rfl)
  · cases hrest
    exact hh.of_relay_step (i := .sqPoll) h (by simp [writeSet]) hrelay rfl [.frameAvailable true] rfl
      (by rw [hphase]; rfl)

/-- After a good fetch the phase asks for the transmit that `relayFrame` gives, and `HF` holds the frame fetched. -/
theorem execSqFetch_history {s t : State} (hh : HistoryInv s) (hs : Inv s) (hseq : s.seq = .relayFetch)
    (h : execSqFetch s = .next t) : HistoryInv t := by
  have hphase : expectedPhase s = .available := by simp [expectedPhase, hseq]
  have hrelay : relaying s.seq = true := by rw [hseq]; rfl
  have hi : .indicator ∉ writeSet .sqFetch := by simp [writeSet]
  obtain ⟨a, hcall, hrest⟩ := bindResult_eq_next.1 h
  obtain ⟨fr, rest, hrxb, ⟨-, rfl⟩ | ⟨-, -, rfl⟩ | ⟨-, -, rfl⟩⟩ := callReceiveFrame_eq_next.1 hcall
  · cases hrest
    have hheld : heldFrame (loadHeld fr) = fr := heldFrame_loadHeld (hs.buffer_wf fr (by simp [hrxb]))
    refine hh.of_relay_step (i := .sqFetch) h hi hrelay rfl [.receiveFrame (.ok fr)] rfl ?_
    rw [hphase]
    simp [traceStep, expectedPhase, hheld]
  · cases hrest
    exact hh.of_relay_step (i := .sqFetch) h hi hrelay rfl [.receiveFrame (.fault .fcRx)] rfl (by rw [hphase]; rfl)
  · cases hrest
    exact hh.of_relay_step (i := .sqFetch) h hi hrelay rfl [.receiveFrame (.fault .fcRx)] rfl (by rw [hphase]; rfl)

/-- The transform makes no call: it puts into `HF` the frame that the phase already asks for, or drops the frame for
which the phase asks for no transmit. -/
theorem execSqXform_history {s t : State} (hh : HistoryInv s) (hseq : s.seq = .relayXform)
    (h : execSqXform s = .next t) : HistoryInv t := by
  have hrelay : relaying s.seq = true := by rw [hseq]; rfl
  have hi : .indicator ∉ writeSet .sqXform := by simp [writeSet]
  cases hx : xform s.params.idOvf s.hf.id s.hf.ext with
  | mk v keep =>
    cases keep with
    | true =>
      have howed : relayFrame s.params.idOvf (heldFrame s.hf) = some (heldFrame { s.hf with id := v }) :=
        relayFrame_of_keep (fr := heldFrame s.hf) hx
      cases (execSqXform_of_keep hx).symm.trans h
      exact hh.of_relay_step (i := .sqXform) h hi hrelay rfl [] (by simp) (by simp [expectedPhase, hseq, howed])
    | false =>
      have howed : relayFrame s.params.idOvf (heldFrame s.hf) = none := relayFrame_of_drop (fr := heldFrame s.hf) hx
      cases (execSqXform_of_drop hx).symm.trans h
      exact hh.of_relay_step (i := .sqXform) h hi hrelay rfl [] (by simp) (by simp [expectedPhase, hseq, howed])

theorem traceStep_owed (p : IdOvfPolicy) (table : Result Table) (fr : Frame) (r : Status) :
    traceStep p table (.owes fr) (.transmitFrame fr r) = .polling := by
  simp [traceStep]

theorem execSqTx_history {s t : State} (hh : HistoryInv s) (hseq : s.seq = .relayTx) (h : execSqTx s = .next t) :
    HistoryInv t := by
  have hphase : expectedPhase s = .owes (heldFrame s.hf) := by simp [expectedPhase, hseq]
  have hrelay : relaying s.seq = true := by rw [hseq]; rfl
  have hi : .indicator ∉ writeSet .sqTx := by simp [writeSet]
  obtain ⟨a, hcall, hrest⟩ := bindResult_eq_next.1 h
  obtain ⟨-, -, ⟨-, rfl⟩ | ⟨-, rfl⟩⟩ := callTransmitFrame_eq_next.1 hcall
  · cases hrest
    exact hh.of_relay_step (i := .sqTx) h hi hrelay rfl [.transmitFrame (heldFrame s.hf) .ok] rfl
      (by rw [hphase, List.foldl_cons, traceStep_owed]; rfl)
  · cases hrest
    exact hh.of_relay_step (i := .sqTx) h hi hrelay rfl [.transmitFrame (heldFrame s.hf) (.fault .fcTx)] rfl
      (by rw [hphase, List.foldl_cons, traceStep_owed]; rfl)

/-! ### Every step -/

/-- The micro-operation that `SEQ` selects keeps the histories. -/
theorem exec_microOp_history {s t : State} (hh : HistoryInv s) (hs : Inv s) (h : exec (microOp s.seq) s = .next t) :
    HistoryInv t := by
  cases hseq : s.seq <;> rw [hseq] at h
  case booting => exact execSqInit_history hh hs hseq h
  case filterConfig => exact execSqCfg_history hh hs hseq h
  case startupTx => exact execSqStx_history hh hs hseq h
  case relayPoll => exact execSqPoll_history hh hseq h
  case relayFetch => exact execSqFetch_history hh hs hseq h
  case relayXform => exact execSqXform_history hh hseq h
  case relayTx => exact execSqTx_history hh hseq h
  case halted =>
    cases (execSqHalt_of_halted hseq).symm.trans h
    exact hh

theorem HistoryInv.resetState {s : State} (hh : HistoryInv s) : HistoryInv (resetState s) :=
  hh.of_exec (i := .reset) rfl [.reset] rfl rfl (levelsSinceReset_reset s.diaglog)

/-- An offer makes no call and reaches only the buffer, on which no history depends. -/
theorem offerFrame_history {fr : Frame} {s t : State} (hh : HistoryInv s) (h : offerFrame fr s = .next t) :
    HistoryInv t := by
  obtain ⟨-, ⟨-, rfl⟩ | ⟨-, rfl⟩⟩ := offerFrame_eq_next.1 h
  · exact { hh with }
  · exact hh

theorem HistoryInv.advance {s : State} (hh : HistoryInv s) : HistoryInv (advance s) := { hh with }

/-- Settles O55: by what a step can run where no command arrives from outside. -/
theorem everyStepKeepsTheCallOrder : Obligations.EveryStepKeepsTheCallOrder := by
  intro s t hs hh hstep
  obtain ⟨i, u, hi, hexec, rfl⟩ := step_eq_next.1 hstep
  refine HistoryInv.advance ?_
  obtain rfl | rfl | ⟨fr, rfl⟩ := hs.fetched_cases hi
  · exact exec_microOp_history hh hs hexec
  · cases hexec
    exact hh.resetState
  · exact offerFrame_history hh hexec

end Sys2Proof.Machine

/-! # The identifier transform (42_relay_sequencer R149) -/

namespace Sys2Proof.Machine

theorem two_pow_widthOf_le (e : Bool) : 2 ^ widthOf e ≤ 2 ^ 29 := by cases e <;> decide

/-- Without overflow the policies agree. -/
theorem xform_of_fits {id : Ident} {e : Bool} (p : IdOvfPolicy) (h : id.toNat + 10 < 2 ^ widthOf e) :
    xform p id e = (BitVec.ofNat 29 (id.toNat + 10), true) := by
  have hnot : ¬ id.toNat + 10 > 2 ^ widthOf e - 1 := by omega
  cases p with
  | wrap => simp [xform, Config.relayOffset, Nat.mod_eq_of_lt h]
  | saturate => simp [xform, Config.relayOffset, hnot]
  | reject => simp [xform, Config.relayOffset, hnot]

/-- On an overflow the sum of an identifier of the width class passes `2 ^ W` once. -/
theorem xform_wrap_of_overflow {id : Ident} {e : Bool} (hid : id.toNat < 2 ^ widthOf e)
    (h : 2 ^ widthOf e ≤ id.toNat + 10) :
    xform .wrap id e = (BitVec.ofNat 29 (id.toNat + 10 - 2 ^ widthOf e), true) := by
  have hten : 10 < 2 ^ widthOf e := by cases e <;> decide
  have hmod : (id.toNat + 10) % 2 ^ widthOf e = id.toNat + 10 - 2 ^ widthOf e := by
    rw [Nat.mod_eq_sub_mod h, Nat.mod_eq_of_lt (by omega)]
  simp [xform, Config.relayOffset, hmod]

theorem xform_saturate_of_overflow {id : Ident} {e : Bool} (h : 2 ^ widthOf e ≤ id.toNat + 10) :
    xform .saturate id e = (BitVec.ofNat 29 (2 ^ widthOf e - 1), true) := by
  have hovf : id.toNat + 10 > 2 ^ widthOf e - 1 := by have := Nat.two_pow_pos (widthOf e); omega
  simp [xform, Config.relayOffset, hovf]

theorem xform_reject_of_overflow {id : Ident} {e : Bool} (h : 2 ^ widthOf e ≤ id.toNat + 10) :
    xform .reject id e = (BitVec.ofNat 29 (id.toNat + 10), false) := by
  have hovf : id.toNat + 10 > 2 ^ widthOf e - 1 := by have := Nat.two_pow_pos (widthOf e); omega
  simp [xform, Config.relayOffset, hovf]

theorem xform_reject_drops_iff {id : Ident} {e : Bool} :
    (xform .reject id e).2 = false ↔ 2 ^ widthOf e ≤ id.toNat + 10 := by
  obtain hfits | hovf := Nat.lt_or_ge (id.toNat + 10) (2 ^ widthOf e)
  · simp [xform_of_fits .reject hfits, hfits]
  · simp [xform_reject_of_overflow hovf, hovf]

/-- Settles O36: by whether the sum stays below `2 ^ W`; the bound is 0x7F6 for 11 bits and 0x1FFFFFF6 for 29. -/
theorem transformAddsTen : Obligations.TransformAddsTen := by
  refine fun id e hid => ⟨fun hfits p => ?_,
    fun hovf => ⟨xform_wrap_of_overflow hid hovf, xform_saturate_of_overflow hovf, xform_reject_of_overflow hovf⟩, ?_,
    fun p => xform_fits⟩
  · rw [xform_of_fits p hfits]
    exact ⟨rfl, BitVec.toNat_ofNat _ _ ▸ Nat.mod_eq_of_lt (hfits.trans_le (two_pow_widthOf_le e))⟩
  · rw [xform_reject_drops_iff]
    cases e with
    | false => simp
    | true => simp

end Sys2Proof.Machine

/-! # The arcs of `SEQ` (42_relay_sequencer R148, R150, 60_exceptions R181) -/

namespace Sys2Proof.Machine

theorem seq_mem_writeSet {i : Instr} : .seq ∈ writeSet i ↔ (∃ q, i = microOp q) ∨ i = .reset := by
  constructor
  · intro h
    cases i with
    | reset => exact .inr rfl
    | sqInit => exact .inl ⟨.booting, rfl⟩
    | sqCfg => exact .inl ⟨.filterConfig, rfl⟩
    | sqStx => exact .inl ⟨.startupTx, rfl⟩
    | sqPoll => exact .inl ⟨.relayPoll, rfl⟩
    | sqFetch => exact .inl ⟨.relayFetch, rfl⟩
    | sqXform => exact .inl ⟨.relayXform, rfl⟩
    | sqTx => exact .inl ⟨.relayTx, rfl⟩
    | sqHalt => exact .inl ⟨.halted, rfl⟩
    | initBus _ | configureFilters _ | frameAvailable | receiveFrame | transmitFrame _ | diagSet _ | diagToggle
    | rxOffer _ => simp [writeSet] at h
  · rintro (⟨q, rfl⟩ | rfl)
    · cases q <;> simp [microOp, writeSet]
    · simp [writeSet]

/-- Outside the micro-operations and `RESET` nothing writes `SEQ`. -/
theorem exec_seq_of_ne {i : Instr} {s t : State} (hmicro : ∀ q, i ≠ microOp q) (hreset : i ≠ .reset)
    (h : exec i s = .next t) : t.seq = s.seq :=
  (exec_keeps h).same .seq (by simp [seq_mem_writeSet, hmicro, hreset])

theorem execSqInit_seq {s t : State} (h : execSqInit s = .next t) :
    t.seq = if s.draws.oInit = .ok then .filterConfig else (cfgReact s).seq := by
  cases hdraw : s.draws.oInit with
  | ok => cases (execSqInit_of_ok hdraw).symm.trans h; rfl
  | fault => cases (execSqInit_of_fault hdraw).symm.trans h; simp

theorem execSqCfg_seq {s t : State} (h : execSqCfg s = .next t) :
    ∃ tb, readTable s.rom = .next tb ∧
      t.seq = if tableWF tb = true ∧ s.draws.oCfg = .ok then .startupTx else (cfgReact s).seq := by
  obtain ⟨tb, hread, htb⟩ := bindResult_eq_next.1 h
  obtain ⟨a, hcall, hrest⟩ := bindResult_eq_next.1 htb
  refine ⟨tb, hread, ?_⟩
  obtain ⟨-, ⟨hwf, rfl⟩ | ⟨-, hdraw, rfl⟩ | ⟨hwf, hdraw, rfl⟩⟩ := callConfigureFilters_eq_next.1 hcall
  · cases hrest; simp [hwf]
  · cases hrest; simp [hdraw]
  · cases hrest; simp [hwf, hdraw]

theorem execSqPoll_seq {s t : State} (h : execSqPoll s = .next t) :
    t.seq = if s.rxb = [] then .relayPoll else .relayFetch := by
  cases (execSqPoll_eq s).symm.trans h
  rfl

theorem execSqFetch_seq {s t : State} (h : execSqFetch s = .next t) :
    t.seq = if s.draws.oRx = .ok then .relayXform else .relayPoll := by
  obtain ⟨a, hcall, hrest⟩ := bindResult_eq_next.1 h
  obtain ⟨fr, rest, -, ⟨hdraw, rfl⟩ | ⟨hdraw, -, rfl⟩ | ⟨hdraw, -, rfl⟩⟩ := callReceiveFrame_eq_next.1 hcall
  all_goals cases hrest; simp [hdraw]

theorem execSqXform_seq {s t : State} (h : execSqXform s = .next t) :
    t.seq = if (xform s.params.idOvf s.hf.id s.hf.ext).2 = true then .relayTx else .relayPoll := by
  rw [execSqXform_eq_ite] at h
  split at h
  · next hkeep => cases h; rw [if_pos hkeep]
  · next hdrop => cases h; rw [if_neg hdrop]

theorem execSqStx_seq {s t : State} (h : execSqStx s = .next t) : t.seq = .relayPoll := by
  obtain ⟨a, -, hrest⟩ := bindResult_eq_next.1 h
  cases hrest
  rfl

theorem execSqTx_seq {s t : State} (h : execSqTx s = .next t) : t.seq = .relayPoll := by
  obtain ⟨a, -, hrest⟩ := bindResult_eq_next.1 h
  cases hrest
  rfl

/-- Settles O38: the arcs are those of the eight micro-operations, and `SEQ` is in no other write set but `RESET`'s. -/
theorem sequencerArcs : Obligations.SequencerArcs := by
  refine ⟨fun s t h => ?_, fun i s t => exec_seq_of_ne, fun s t h => by cases h; exact ⟨rfl, rfl⟩⟩
  cases hseq : s.seq <;> rw [hseq] at h
  case booting =>
    have harc := execSqInit_seq h
    rw [cfgReact_seq, hseq] at harc
    exact harc
  case filterConfig =>
    obtain ⟨tb, hread, harc⟩ := execSqCfg_seq h
    rw [cfgReact_seq, hseq] at harc
    exact ⟨tb, hread, harc⟩
  case startupTx => exact execSqStx_seq h
  case relayPoll => exact execSqPoll_seq h
  case relayFetch => exact execSqFetch_seq h
  case relayXform => exact execSqXform_seq h
  case relayTx => exact execSqTx_seq h
  case halted => cases h; rfl

theorem encode_microOp (q : SeqState) : encode (microOp q) = .seqCode (seqCode q) := by
  simpa using encode_microOp_seqOfCode (seqCode q)

/-- No word of the other code spaces spells a micro-operation (30_encoding R70), so the one that a step runs is the
selected one. -/
theorem eq_seq_of_fetched_microOp {s : State} {q : SeqState} (h : fetched s = .ok (microOp q)) : q = s.seq := by
  cases hline : s.line with
  | seqStep d =>
    have hsel : microOp s.seq = microOp q := Except.ok.inj ((fetched_of_seqStep hline).symm.trans h)
    have hcode : seqCode q = seqCode s.seq := CodeWord.seqCode.inj (by rw [← encode_microOp, ← encode_microOp, hsel])
    simpa using congrArg seqOfCode hcode
  | event bytes d =>
    have henc := (decodedItemsReencode (.event bytes) _ ((fetched_of_event hline).symm.trans h)).1
    rw [encode_microOp] at henc
    cases henc
  | command bytes d =>
    have henc := (decodedItemsReencode (.command bytes) _ ((fetched_of_command hline).symm.trans h)).1
    rw [encode_microOp] at henc
    cases henc

/-- A sequencer step runs the selected micro-operation and takes its line off the schedule. -/
theorem step_of_seqStep {s u : State} {q : SeqState} {d : Draws} {rest : List ScheduleLine} (hseq : s.seq = q)
    (hscript : s.script = .seqStep d :: rest) (h : exec (microOp q) s = .next u) :
    step s = .next { u with script := rest, freeIx := s.freeIx + 1 } := by
  have hfetch : fetched s = .ok (microOp q) := by rw [fetched_of_seqStep (line_of_script_cons hscript), hseq]
  obtain ⟨-, -, hs, hix⟩ := (exec_keeps h).same .wired (wired_not_mem_writeSet _)
  rw [step_of_fetched_ok hfetch, h, bindResult_next, advance, hs, hscript, hix, List.tail_cons]

/-- Settles O49: what a step runs in `HALTED` is `RESET`, `SQ_HALT`, or an instruction that leaves `SEQ` alone. -/
theorem onlyResetLeavesHalted : Obligations.OnlyResetLeavesHalted := by
  refine ⟨fun s t hseq hstep => ?_, fun s d rest hseq hscript => ?_⟩
  · obtain ⟨i, u, hi, hexec, rfl⟩ := step_eq_next.1 hstep
    by_cases hreset : i = .reset
    · subst hreset
      cases hexec
      exact .inl ⟨hi, rfl⟩
    · refine .inr ⟨fun hr => hreset (Except.ok.inj (hi.symm.trans hr)), ?_⟩
      by_cases hmicro : ∃ q, i = microOp q
      · obtain ⟨q, rfl⟩ := hmicro
        rw [eq_seq_of_fetched_microOp hi, hseq] at hexec
        cases hexec
        rfl
      · exact (exec_seq_of_ne (fun q hq => hmicro ⟨q, hq⟩) hreset hexec).trans hseq
  · exact step_of_seqStep hseq hscript (execSqHalt_of_halted hseq)

end Sys2Proof.Machine

/-! # Runs of a few steps (42_relay_sequencer R145, R151, R152) -/

namespace Sys2Proof.Machine

/-- A run whose first line is a sequencer step goes on from what the selected micro-operation leaves. -/
theorem run_of_seqStep {s u : State} {q : SeqState} {d : Draws} {rest : List ScheduleLine} {k : Nat}
    {r : Result State} (hseq : s.seq = q) (hscript : s.script = .seqStep d :: rest)
    (h : exec (microOp q) s = .next u)
    (hrun : Host.Core.run core k { u with script := rest, freeIx := s.freeIx + 1 } = r) :
    Host.Core.run core (k + 1) s = r := by
  have hstep : core.step s = .next { u with script := rest, freeIx := s.freeIx + 1 } := step_of_seqStep hseq hscript h
  simp only [Host.Core.run]
  rw [hstep]
  exact hrun

/-! ### The boot (R151) -/

/-- Settles O57: the three boot micro-operations in turn. -/
theorem bootReachesTheRelay : Obligations.BootReachesTheRelay := by
  intro s d1 d2 d3 more tb hseq hscript hInit hCfg hTx hread hwf
  have hdraw : s.draws.oInit = .ok := by rw [draws_of_script_cons hscript]; exact hInit
  refine ⟨_, run_of_seqStep hseq hscript (execSqInit_of_ok hdraw) <|
    run_of_seqStep (q := .filterConfig) rfl rfl (execSqCfg_of_ok rfl hread hwf hCfg) <|
    run_of_seqStep (q := .startupTx) rfl rfl (execSqStx_of_ok rfl hTx) rfl,
    rfl, rfl, rfl, rfl, rfl, rfl, rfl, rfl, rfl, ?_, rfl, ?_⟩
  · simp [Config.bitRate]
  · simp

/-! ### The relay (R152, R153) -/

theorem xform_of_relayFrame {p : IdOvfPolicy} {fr out : Frame} (h : relayFrame p fr = some out) :
    xform p fr.id fr.ext = (out.id, true) ∧ out = { fr with id := out.id } := by
  cases hx : xform p fr.id fr.ext with
  | mk v keep =>
    cases keep with
    | true =>
      cases (relayFrame_of_keep hx).symm.trans h
      exact ⟨rfl, rfl⟩
    | false => cases (relayFrame_of_drop hx).symm.trans h

/-- What the relay owes for a well-formed frame is well-formed (00_scope R12, 42_relay_sequencer R149). -/
theorem frameWF_relayFrame {p : IdOvfPolicy} {fr out : Frame} (hwf : frameWF fr = true)
    (h : relayFrame p fr = some out) : frameWF out = true := by
  obtain ⟨hx, hout⟩ := xform_of_relayFrame h
  obtain ⟨hlen, hdata, -⟩ := (frameWF_iff fr).1 hwf
  have hfits : out.id.toNat < 2 ^ widthOf fr.ext := by simpa [hx] using xform_fits (p := p) (congrArg Prod.snd hx)
  rw [hout]
  exact (frameWF_iff _).2 ⟨hlen, hdata, hfits⟩

/-- `HF` loaded with a frame and given another identifier holds that frame with that identifier. -/
theorem heldFrame_loadHeld_id {fr : Frame} (hwf : frameWF fr = true) (v : Ident) :
    heldFrame { loadHeld fr with id := v } = { fr with id := v } :=
  congrArg (fun x : Frame => { x with id := v }) (heldFrame_loadHeld hwf)

/-- Settles O58: the four micro-operations of the relay in turn; what the last one finds in `HF` is the frame owed. -/
theorem relayTransmitsTheFetchedFrame : Obligations.RelayTransmitsTheFetchedFrame := by
  intro s fr out rest d1 d2 d3 d4 more hs hseq hrxb hscript hRx hTx hout
  obtain ⟨hx, heq⟩ := xform_of_relayFrame hout
  have hwf : frameWF fr = true := hs.buffer_wf fr (by simp [hrxb])
  have hbus : s.buson = true := hs.bus_on (by simp [hseq]) (by simp [hseq])
  have hheld : heldFrame { loadHeld fr with id := out.id } = out := (heldFrame_loadHeld_id hwf out.id).trans heq.symm
  refine ⟨by rw [heq], by rw [heq], by rw [heq], by rw [heq], by rw [hx], ?_⟩
  refine ⟨_, run_of_seqStep hseq hscript (execSqPoll_of_waiting (by simp [hrxb])) <|
    run_of_seqStep (q := .relayFetch) rfl rfl (execSqFetch_of_ok hrxb hRx) <|
    run_of_seqStep (q := .relayXform) rfl rfl (execSqXform_of_keep hx) <|
    run_of_seqStep (q := .relayTx) rfl rfl (execSqTx_of_ok hbus hheld (frameWF_relayFrame hwf hout) hTx) rfl,
    rfl, rfl, rfl, rfl, rfl, rfl, ?_, rfl⟩
  simp

/-! ### A faulted fetch (R145, R178) -/

/-- Settles O59: the fetch and the poll after it; neither writes `HF`, `HFV` or `TXOUT`. -/
theorem failedFetchTransmitsNothing : Obligations.FailedFetchTransmitsNothing := by
  intro s fr rest d1 d2 more hseq hrxb hscript hRx
  have hd : s.draws = d1 := draws_of_script_cons hscript
  have hdraw : s.draws.oRx = .fault := by rw [hd]; exact hRx
  refine ⟨_, run_of_seqStep hseq hscript (execSqFetch_of_fault hrxb hdraw) <|
    run_of_seqStep (q := .relayPoll) rfl rfl (execSqPoll_eq _) rfl, rfl, rfl, rfl, rfl, rfl, ?_, ?_, rfl⟩
  · rw [hd]
    cases d1.oRxKeep <;> rfl
  · exact List.append_assoc _ _ _

end Sys2Proof.Machine

/-! # No trap: no step ends in a fault of the model (60_exceptions R170, R175, 20_memory R58) -/

namespace Sys2Proof.Machine

/-- The outcome is an answer or a refusal, not a fault of the model. -/
def NoFault {α : Type} (r : Result α) : Prop := ∀ e, r ≠ .fault e

theorem noFault_next {α : Type} (a : α) : NoFault (.next a : Result α) := nofun

theorem noFault_refused {α : Type} (e : Refusal) : NoFault (.refused e : Result α) := nofun

theorem NoFault.of_answers {α : Type} {r : Result α} (h : ∃ a, r = .next a) : NoFault r := by
  obtain ⟨a, rfl⟩ := h
  exact noFault_next a

theorem NoFault.of_refused {α : Type} {r : Result α} {e : Refusal} (h : r = .refused e) : NoFault r := by
  subst h
  exact noFault_refused e

/-- A sequence faults only where one of its two parts does. -/
theorem NoFault.bind {α β : Type} {r : Result α} {f : α → Result β} (hr : NoFault r) (hf : ∀ a, NoFault (f a)) :
    NoFault (bindResult r f) := by
  cases r with
  | next a => exact hf a
  | fault e => exact absurd rfl (hr e)
  | refused e => exact noFault_refused e

theorem NoFault.dropResponse {α : Type} {r : Result (α × State)} (hr : NoFault r) : NoFault (dropResponse r) :=
  hr.bind fun a => noFault_next a.2

/-! ### The ROM -/

/-- The word of entry `j` ends at address 31 at most, so an entry that cannot be read is an invalid image and never a
read outside the ROM (20_memory R51). -/
theorem romEntry_ne_romFault (m : List Host.Cell) {j : Nat} (hj : j < 8) (e : Fault) :
    romEntry m j ≠ .error (.inl e) := by
  rw [romEntry_of_bytes (fun _ ha => romByte_of_lt ha) hj]
  split <;> nofun

theorem readTable_noFault (m : List Host.Cell) : NoFault (readTable m) := by
  intro e h
  cases htable : tableFrom (romEntry m) with
  | ok t => simp [readTable, htable] at h
  | error err =>
    cases err with
    | inl f =>
      obtain ⟨j, hj, hentry⟩ := exists_entry_of_tableFrom_eq_error htable
      exact romEntry_ne_romFault m hj f hentry
    | inr d => simp [readTable, htable] at h

/-! ### The calls: each answers, or is refused where its precondition fails -/

theorem callInitBus_noFault (n : Word32) (s : State) : NoFault (callInitBus n s) :=
  .of_answers (callInitBus_answers n s)

theorem callConfigureFilters_noFault (t : Table) (s : State) : NoFault (callConfigureFilters t s) := by
  cases hbus : s.buson with
  | false => exact .of_refused (callConfigureFilters_of_busOff t hbus)
  | true => exact .of_answers (callConfigureFilters_answers t hbus)

theorem callFrameAvailable_noFault (s : State) : NoFault (callFrameAvailable s) :=
  .of_answers ⟨_, callFrameAvailable_eq s⟩

theorem callReceiveFrame_noFault (s : State) : NoFault (callReceiveFrame s) := by
  by_cases hrxb : s.rxb = []
  · exact .of_refused (callReceiveFrame_of_empty hrxb)
  · exact .of_answers (callReceiveFrame_answers hrxb)

theorem callTransmitFrame_noFault (fr : Frame) (s : State) : NoFault (callTransmitFrame fr s) := by
  cases hbus : s.buson with
  | false => exact .of_refused (callTransmitFrame_of_busOff fr hbus)
  | true =>
    cases hwf : frameWF fr with
    | false => exact .of_refused (callTransmitFrame_of_illFormed hbus hwf)
    | true => exact .of_answers (callTransmitFrame_answers hbus hwf)

theorem offerFrame_noFault (fr : Frame) (s : State) : NoFault (offerFrame fr s) := by
  cases hwf : frameWF fr with
  | false => exact .of_refused (offerFrame_of_illFormed s hwf)
  | true => exact .of_answers ⟨_, offerFrame_of_wf hwf⟩

/-! ### The instructions and the step -/

/-- What a micro-operation does with the response of its call faults in no case, so only the call matters; `SQ_CFG` is
the one that reads the ROM. -/
theorem exec_noFault (i : Instr) (s : State) : NoFault (exec i s) := by
  cases i with
  | initBus n => exact (callInitBus_noFault n s).dropResponse
  | configureFilters t => exact (callConfigureFilters_noFault t s).dropResponse
  | frameAvailable => exact (callFrameAvailable_noFault s).dropResponse
  | receiveFrame => exact (callReceiveFrame_noFault s).dropResponse
  | transmitFrame fr => exact (callTransmitFrame_noFault fr s).dropResponse
  | diagSet b => exact noFault_next _
  | diagToggle => exact noFault_next _
  | reset => exact noFault_next _
  | rxOffer fr => exact offerFrame_noFault fr s
  | sqInit => exact .of_answers (execSqInit_completes s)
  | sqCfg =>
    refine (readTable_noFault s.rom).bind fun t => (callConfigureFilters_noFault t s).bind fun ⟨r, u⟩ => ?_
    cases r <;> exact noFault_next _
  | sqStx => exact (callTransmitFrame_noFault _ _).bind fun _ => noFault_next _
  | sqPoll => exact .of_answers (execSqPoll_completes s)
  | sqFetch =>
    refine (callReceiveFrame_noFault s).bind fun ⟨r, u⟩ => ?_
    cases r <;> exact noFault_next _
  | sqXform => exact .of_answers (execSqXform_completes s)
  | sqTx => exact (callTransmitFrame_noFault _ s).bind fun _ => noFault_next _
  | sqHalt => exact noFault_next _

/-- Settles O39: an invalid word is refused, and no instruction faults. -/
theorem noStepFaults : Obligations.NoStepFaults := by
  intro s
  change NoFault (step s)
  cases hfetch : fetched s with
  | error e => exact .of_refused (step_of_fetched_error hfetch)
  | ok i =>
    rw [step_of_fetched_ok hfetch]
    exact (exec_noFault i s).bind fun t => noFault_next (advance t)

end Sys2Proof.Machine

/-! # An offer and a relay transmit in either order (60_exceptions R174 a) -/

namespace Sys2Proof.Machine

/-- The answers of a step are those of its line, which the schedule and the number of steps taken fix. -/
theorem draws_of_wired_same {s t : State} (h : Register.wired.Same s t) : t.draws = s.draws := by
  obtain ⟨-, -, hscript, hfreeIx⟩ := h
  rw [State.draws, State.draws, State.line, State.line, hscript, hfreeIx]

/-- The gate looks at the bus, the filter, the parameters and the draws only. -/
theorem offerStored_of_same {s t : State} (fr : Frame) (hbus : Register.bus.Same s t)
    (hfilter : Register.filter.Same s t) (hwired : Register.wired.Same s t) :
    offerStored t fr = offerStored s fr := by
  have hdraws := draws_of_wired_same hwired
  obtain ⟨hbuson, -⟩ := hbus
  obtain ⟨hcfgd, hfilters⟩ := hfilter
  obtain ⟨hparams, -⟩ := hwired
  rw [Bool.eq_iff_iff, offerStored_iff, offerStored_iff, hbuson, hcfgd, hfilters, hparams, hdraws]

/-- Where nothing but the held frame, `SEQ` and `TXF` is different, an offer leaves the same buffer. -/
theorem offerFrame_of_keeps {fr : Frame} {s t u : State} (hk : Keeps [.held, .txFault, .seq] s t)
    (h : offerFrame fr s = .next u) :
    u = { s with rxb := u.rxb } ∧ offerFrame fr t = .next { t with rxb := u.rxb } := by
  have hstored : offerStored t fr = offerStored s fr :=
    offerStored_of_same fr (hk.same .bus (by simp)) (hk.same .filter (by simp)) (hk.same .wired (by simp))
  have hrxb : t.rxb = s.rxb := hk.same .buffer (by simp)
  obtain ⟨hparams, -⟩ := hk.same .wired (by simp)
  obtain ⟨hwf, -⟩ := offerFrame_eq_next.1 h
  rw [offerFrame_of_wf hwf] at h
  cases h
  refine ⟨rfl, ?_⟩
  rw [offerFrame_of_wf hwf, hstored, hparams, hrxb]

/-- `SQ_TX` neither reads nor writes `RXB`: over another buffer it does the same and keeps that buffer. -/
theorem execSqTx_setBuffer {s t : State} (rxb : List Frame) (h : execSqTx s = .next t) :
    execSqTx { s with rxb := rxb } = .next { t with rxb := rxb } := by
  obtain ⟨a, hcall, hrest⟩ := bindResult_eq_next.1 h
  obtain ⟨hbus, hwf, ⟨hdraw, rfl⟩ | ⟨hdraw, rfl⟩⟩ := callTransmitFrame_eq_next.1 hcall
  · cases hrest
    exact execSqTx_of_ok (s := { s with rxb := rxb }) hbus rfl hwf hdraw
  · cases hrest
    exact execSqTx_of_fault (s := { s with rxb := rxb }) hbus rfl hwf hdraw

/-- Settles O48: the transmit leaves all that the offer reads, and the offer writes the buffer only. -/
theorem offerAndTransmitCommute : Obligations.OfferAndTransmitCommute := by
  intro fr s t u htx hoffer
  obtain ⟨hu, hafter⟩ := offerFrame_of_keeps (execSqTx_keeps htx) hoffer
  refine ⟨{ t with rxb := u.rxb }, hafter, ?_⟩
  rw [hu]
  exact execSqTx_setBuffer u.rxb htx

end Sys2Proof.Machine

/-! # The ready signature of the indicator (60_exceptions R183) -/

namespace Sys2Proof.Machine

/-- The three levels of a finished boot are owed in the relay states and in no other, a halt included. -/
theorem indicatorSignature_eq_ready_iff {s : State} :
    indicatorSignature s = [true, false, true] ↔ relaying s.seq = true := by
  refine ⟨fun hsig => ?_, indicatorSignature_of_relaying⟩
  cases hseq : s.seq with
  | relayPoll | relayFetch | relayXform | relayTx => rfl
  | booting | filterConfig | startupTx => simp [indicatorSignature, hseq] at hsig
  | halted => cases hbus : s.buson <;> simp [indicatorSignature, hseq, hbus] at hsig

/-- Settles O56: the levels are those of the stage, and in the relay the last of them is the level of `DIAG`. -/
theorem readySignatureShowsTheRelay : Obligations.ReadySignatureShowsTheRelay := by
  intro s hs hh
  rw [hh.levels, indicatorSignature_eq_ready_iff]
  refine ⟨⟨fun hrelay => ⟨hs.diag_of_relaying hrelay, hrelay⟩, And.right⟩, fun hseq => ?_, fun hseq => ?_⟩
  · rw [indicatorSignature, hseq]
  · rw [indicatorSignature, hseq]

end Sys2Proof.Machine

/-! # Relayed frames under the deployment table (70_reset_and_hazards R208, R211) -/

namespace Sys2Proof.Machine

/-! ### No overflow (R208) -/

/-- Without overflow every policy relays, and with the same identifier. -/
theorem relayFrame_of_fits {fr : Frame} (p : IdOvfPolicy) (h : fr.id.toNat + 10 < 2 ^ widthOf fr.ext) :
    relayFrame p fr = some { fr with id := fr.id + 10#29 } := by
  have hsum : BitVec.ofNat 29 (fr.id.toNat + 10) = fr.id + 10#29 := by
    rw [BitVec.ofNat_add, BitVec.ofNat_toNat, BitVec.setWidth_eq]
  rw [relayFrame_of_keep (xform_of_fits p h), hsum]

/-- The highest identifier that the deployment table accepts is 0x0FF. -/
theorem toNat_id_le_of_accept_table {fr : Frame} (hwf : frameWF fr = true) (h : accept Config.table fr = true) :
    fr.id.toNat ≤ 0x0FF := by
  obtain ⟨-, hid⟩ := (deploymentAcceptsFiveIdentifiers fr hwf).1 h
  obtain hid | hid | hid | hid | hid := hid <;> rw [hid] <;> decide

/-- Settles O16: 0x0FF plus 10 is far below both widths' bounds. -/
theorem deploymentRelaysPlusTenUnderEveryPolicy : Obligations.DeploymentRelaysPlusTenUnderEveryPolicy := by
  intro fr p hwf hacc
  have hle := toNat_id_le_of_accept_table hwf hacc
  have hbound : 2 ^ 11 ≤ 2 ^ widthOf fr.ext := by cases fr.ext <;> decide
  exact relayFrame_of_fits p (by omega)

/-! ### Echoes (R211) -/

/-- Under `WRAP` a standard identifier is relayed modulo `2 ^ 11` (42_relay_sequencer R149). -/
theorem toNat_id_of_relayFrame_wrap {fr out : Frame} (hstd : fr.ext = false)
    (h : relayFrame .wrap fr = some out) : out.id.toNat = (fr.id.toNat + 10) % 2 ^ 11 := by
  obtain ⟨hx, -⟩ := xform_of_relayFrame h
  have hid : BitVec.ofNat 29 ((fr.id.toNat + 10) % 2 ^ widthOf fr.ext) = out.id := congrArg Prod.fst hx
  rw [← hid, hstd, widthOf_false, BitVec.toNat_ofNat]
  omega

/-- The relayed form is accepted exactly where ten below it, modulo `2 ^ 11`, the five accepted identifiers lie. -/
theorem accept_table_relayFrame_wrap_iff {fr out : Frame} (hwf : frameWF fr = true)
    (h : relayFrame .wrap fr = some out) :
    accept Config.table out = true ↔
      fr.ext = false ∧
        (fr.id = 0x7F6#29 ∨ fr.id = 0x7FA#29 ∨ fr.id = 0x7FE#29 ∨ fr.id = 0x002#29 ∨ fr.id = 0x0F5#29) := by
  obtain ⟨-, hout⟩ := xform_of_relayFrame h
  have hext : out.ext = fr.ext := by rw [hout]
  rw [deploymentAcceptsFiveIdentifiers out (frameWF_relayFrame hwf h), hext]
  refine and_congr_right fun hstd => ?_
  obtain ⟨-, -, hfits⟩ := (frameWF_iff fr).1 hwf
  rw [hstd, widthOf_false] at hfits
  have hsum := toNat_id_of_relayFrame_wrap hstd h
  simp only [← BitVec.toNat_inj, BitVec.toNat_ofNat]
  omega

/-- Settles O17: of the five identifiers whose relayed form is accepted, none is accepted itself. -/
theorem deploymentEchoesAreRejected : Obligations.DeploymentEchoesAreRejected := by
  intro fr out hwf hout
  have hecho := accept_table_relayFrame_wrap_iff hwf hout
  refine ⟨hecho, fun hacc => Bool.eq_false_iff.2 fun haccOut => ?_⟩
  obtain ⟨-, hid⟩ := (deploymentAcceptsFiveIdentifiers fr hwf).1 hacc
  obtain ⟨-, hback⟩ := hecho.1 haccOut
  obtain hid | hid | hid | hid | hid := hid <;> rw [hid] at hback <;> exact absurd hback (by decide)

end Sys2Proof.Machine

/-! # `RESET` (70_reset_and_hazards R200) -/

namespace Sys2Proof.Machine

theorem exec_reset (s : State) : exec .reset s = .next (resetState s) := rfl

/-- Settles O26: the unspecified registers take the free values of this step. -/
theorem resetResult : Obligations.ResetResult := by
  refine ⟨decode_of_encode_eq rfl rfl, fun s =>
    ⟨Config.freeBitRate s.freeIx, Config.freeFilters s.freeIx, Config.freeHeld s.freeIx, ?_⟩⟩
  rw [exec_reset, resetState]

end Sys2Proof.Machine
